-- ==== Sys2Proof/Word.lean ====
section
/-! DEFINITION. The word types of the block: one name per width of spec/00_scope.md R5 and R6. Bit 0 is the least
significant bit of each, and every value is unsigned (R6). -/

namespace Sys2Proof

/-- A state byte, or a word of `transition_table_rom` (STATE_W = 8, R5). -/
abbrev Byte := BitVec 8

/-- A graph-node number (NODE_W = 4, R5). -/
abbrev Nibble := BitVec 4

/-- An input code, signal B in bit 1 and signal A in bit 0 (CODE_W = 2, R5, R31). -/
abbrev Code := BitVec 2

/-- The direction field of a state byte (R12, R43). -/
abbrev Dir := BitVec 2

/-- A period, a click count or a speed (PERIOD_W = COUNT_W = SPEED_W = 16, R5). -/
abbrev Word16 := BitVec 16

/-- A millisecond time (TIME_W = 32, R5). -/
abbrev Time := BitVec 32

/-- A command vector (R44). -/
abbrev CmdVec := BitVec 21

/-- An address of `transition_table_rom` (R29). -/
abbrev RomAddr := BitVec 6

end Sys2Proof
end

