-- ==== Sys2Proof/Config.lean ====
section
/-! DEFINITION. What a build fixes (spec/00_scope.md R5), the names of the graph nodes and of the events
(spec/30_encoding.md R41 to R43), and the model's one free value. -/

namespace Sys2Proof

/-- The build parameter MODE (R5): which decode graph the table holds. -/
inductive Mode where
  | fullStep
  | halfStep
  deriving DecidableEq, Repr

/-- The build-time parameters of an instance (R5). SPEED_ENABLE is not here: whether the speed unit exists is the layout
of the state itself (R19; log 3). -/
structure Build where
  /-- MODE. -/
  mode : Mode
  /-- DEFAULT_PERIOD in milliseconds, 1 to 1000 (R5). -/
  defaultPeriod : Word16
  deriving DecidableEq, Repr

/-- The build that `State.reset` has: DEFAULT_PERIOD is 500, as R5 says where the build sets none. MODE is open in the spec
(D19). DESIGN CHOICE, log 2. -/
def Build.default : Build := { mode := .fullStep, defaultPeriod := 500#16 }

/-- The largest legal sampling period, in milliseconds (R15). -/
def maxPeriod : Nat := 1000

/-- Milliseconds in a second: the dividend of the speed formula (R83). -/
def msPerSecond : Nat := 1000

/-- The nodes of the full-step graph (R41). -/
inductive FullNode where
  | start | cwFinal | cwBegin | cwNext | ccwBegin | ccwFinal | ccwNext
  deriving DecidableEq, Repr

/-- The nodes of the half-step graph (R42). -/
inductive HalfNode where
  | start | ccwBegin | cwBegin | startMid | cwBeginMid | ccwBeginMid
  deriving DecidableEq, Repr

/-- The event of a step (R43). -/
inductive DirEvent where
  | none | cw | ccw
  deriving DecidableEq, Repr

/-- FREE VALUE: the quotient of a dividend by 0. The spec divides only by a `period_q` that reset has made legal (R80,
R90) and gives no quotient for 0, which only a register value from before the first reset (R28) can be. DESIGN CHOICE,
safe, log 6. -/
opaque Config.divByZero : Nat → Nat

end Sys2Proof
end

