-- ==== Sys2Proof/Syntax.lean ====
section
/-! DEFINITION. The operations of spec/opcode_table.json, one constructor per row, and the shapes their encodings are
written in: the port values of one edge (spec/10_state.md R25, spec/30_encoding.md R44) and a row of the opcode map
(R46). -/

namespace Sys2Proof

/-- The operation that one clock edge performs (R46). An operand is the port value that the operation samples; the ports
that it ignores are no operands. -/
inductive Instr where
  /-- RESET (R104). -/
  | reset
  /-- NOP (R75). -/
  | nop
  /-- STEP with `code_i` and `now_i` (R73). `now` plays no part where SPEED_ENABLE = 0. -/
  | step (code : Code) (now : Time)
  /-- CFG_PERIOD with `period_i` (R86). -/
  | cfgPeriod (period : Word16)
  /-- STEP_CFG with `code_i`, `now_i` and `period_i` (R87). -/
  | stepCfg (code : Code) (now : Time) (period : Word16)
  deriving DecidableEq, Repr

/-- The operation's name in the opcode table. -/
def Instr.mnemonic : Instr → String
  | .reset => "RESET"
  | .nop => "NOP"
  | .step _ _ => "STEP"
  | .cfgPeriod _ => "CFG_PERIOD"
  | .stepCfg _ _ _ => "STEP_CFG"

/-- The input ports at one rising edge (R25): the 21-bit command vector `{rst_i, step_i, cfg_i, code_i, period_i}` and
the side operand `now_i` (R44). -/
structure PortSample where
  vec : CmdVec
  now : Time
  deriving DecidableEq, Repr

/-- A row of the opcode map (R46): a vector is of the row when its bits under `mask` are `pattern`. -/
structure OpcodeRow where
  mnemonic : String
  pattern : CmdVec
  mask : CmdVec
  deriving DecidableEq, Repr

/-- Why a number is no command vector. -/
inductive DecodeError where
  /-- A bit is set at position 21 or above, where no port is (R44, R49). -/
  | bitWithoutPort
  deriving DecidableEq, Repr

end Sys2Proof
end

