-- ==== Sys2Proof/Decode.lean ====
section
/-! DEFINITION. The decoder of the command vector, total on every vector, and the encoder, both from the opcode map of
spec/30_encoding.md R44 to R46. No vector is rejected (R48 item 1); a number with a bit where no port is, is rejected by
name. What an instance with SPEED_ENABLE = 0 lacks decodes all the same (R49: no mode bit changes how a vector decodes); the
edge and the meanings refuse it. -/

namespace Sys2Proof

/-! ### The ports of a command vector (R44) -/

/-- `rst_i`, bit 20. -/
def PortSample.rst (x : PortSample) : Bool := x.vec.getLsbD 20
/-- `step_i`, bit 19. -/
def PortSample.step (x : PortSample) : Bool := x.vec.getLsbD 19
/-- `cfg_i`, bit 18. -/
def PortSample.cfg (x : PortSample) : Bool := x.vec.getLsbD 18
/-- `code_i`, bits 17:16 (R45). -/
def PortSample.code (x : PortSample) : Code := x.vec.extractLsb' 16 2
/-- `period_i`, bits 15:0 (R45). -/
def PortSample.period (x : PortSample) : Word16 := x.vec.extractLsb' 0 16

/-! ### Decoding -/

/-- The operation an edge performs (R46). `rst_i` is tested first and dominates (R47); the other four rows are the four
values of `{step_i, cfg_i}`. -/
def decode (x : PortSample) : Instr :=
  match x.rst, x.step, x.cfg with
  | true, _, _ => .reset
  | false, false, false => .nop
  | false, true, false => .step x.code x.now
  | false, false, true => .cfgPeriod x.period
  | false, true, true => .stepCfg x.code x.now x.period

/-- The opcode map as the spec's table prints it (R46). -/
def opcodeRows : List OpcodeRow :=
  [ ⟨"RESET", 0x100000#21, 0x100000#21⟩
  , ⟨"NOP", 0x000000#21, 0x1C0000#21⟩
  , ⟨"STEP", 0x080000#21, 0x1C0000#21⟩
  , ⟨"CFG_PERIOD", 0x040000#21, 0x1C0000#21⟩
  , ⟨"STEP_CFG", 0x0C0000#21, 0x1C0000#21⟩ ]

/-- The port values of a number whose bits are the command vector, bit 0 the least significant (R44), with `now_i` = 0:
the side operand is no part of the vector (log 20). A bit without a port is rejected. -/
def PortSample.ofWord (nbits w : Nat) : Except DecodeError PortSample :=
  if w % 2 ^ nbits < 2 ^ 21 then .ok { vec := BitVec.ofNat 21 (w % 2 ^ nbits), now := 0#32 }
  else .error .bitWithoutPort

/-- The operation the decoder reads from the opcode table's `nbits` bits `w`. -/
def decodeTableWord (nbits w : Nat) : Option Instr :=
  match PortSample.ofWord nbits w with
  | .ok x => some (decode x)
  | .error _ => none

/-! ### Encoding -/

/-- `code` in bits 17:16 of a vector (R44). -/
def codeField (code : Code) : CmdVec := code.setWidth 21 <<< 16

/-- `period` in bits 15:0 of a vector (R44). -/
def periodField (period : Word16) : CmdVec := period.setWidth 21

/-- The port values that present an operation, ignored bits 0: the vectors of R51's notation, which are the encoding
strings of R46. -/
def encode : Instr → PortSample
  | .reset => { vec := 0x100000#21, now := 0#32 }
  | .nop => { vec := 0x000000#21, now := 0#32 }
  | .step code now => { vec := 0x080000#21 ||| codeField code, now := now }
  | .cfgPeriod period => { vec := 0x040000#21 ||| periodField period, now := 0#32 }
  | .stepCfg code now period => { vec := 0x0C0000#21 ||| codeField code ||| periodField period, now := now }

end Sys2Proof
end

