-- ==== Sys2Proof/Machine/State.lean ====
section
/-! DEFINITION. The architectural state (spec/10_state.md R9), the reasons a step can stop, and the state after reset
(R27). -/

namespace Sys2Proof.Machine

/-- The registers of the speed unit, which exist only where SPEED_ENABLE = 1 (R9, R19). -/
structure SpeedUnit where
  /-- `period_q`, the sampling-window length in milliseconds (R15). -/
  periodQ : Word16
  /-- `clicks_q`, the clicks counted in the current window (R16). -/
  clicksQ : Word16
  /-- `last_q`, the time at the last window boundary (R17). -/
  lastQ : Time
  /-- `speed_q`, the last computed clicks per second (R18). -/
  speedQ : Word16
  deriving DecidableEq, Repr

/-- The block's registers (R9), its build parameters (R5), which no operation writes, and the input-port values of the
edges to come. -/
structure State where
  /-- MODE and DEFAULT_PERIOD (R5; log 2). -/
  build : Build
  /-- `state_q`, the state byte (R10 to R13, R40). -/
  stateQ : Byte
  /-- `step_done_q` (R14). -/
  stepDoneQ : Bool
  /-- The speed unit's registers; `none` is an instance built with SPEED_ENABLE = 0, which has no such state (R19; log 3). -/
  speedUnit : Option SpeedUnit
  /-- The model's own field: the port values of the edges still to come, oldest first. The operation stream at the ports is
  the block's program (R20; log 1). -/
  inputs : List PortSample
  deriving DecidableEq, Repr

/-- SPEED_ENABLE (R5). -/
def State.speedEnable (s : State) : Bool := s.speedUnit.isSome

/-- Faults. There are none: no operation of the block can fail (R93), and its fault type is empty
(spec/93_implementation_defined.md, the note that closes part 1). Nobody raises one. -/
inductive Fault where
  deriving DecidableEq, Repr

/-- Refusals: the model does not take the step. Each is safe (the model stops, and claims nothing). -/
inductive Refusal where
  /-- Raised by the dispatch for an instruction that has no meaning yet. Safe. -/
  | notModelled (mnemonic : String)
  /-- "CFG_PERIOD without speed unit": raised where SPEED_ENABLE = 0 by every edge that asserts `cfg_i`, because that port
  does not exist there (R19, R48 item 2, D17; log 4), and by the operations CFG_PERIOD and STEP_CFG themselves (log 5).
  Safe. -/
  | cfgPeriodWithoutSpeedUnit
  /-- Raised by the step where `inputs` lists no further edge: the environment has not said what the ports are (log 1).
  Safe. -/
  | noEdgeSupplied
  deriving DecidableEq, Repr

/-- The speed unit after reset (R27). -/
def SpeedUnit.reset (b : Build) : SpeedUnit :=
  { periodQ := b.defaultPeriod, clicksQ := 0#16, lastQ := 0#32, speedQ := 0#16 }

/-- The state of an instance right after reset (R27), with no edge supplied yet. -/
def State.resetOf (b : Build) (speedEnable : Bool) : State :=
  { build := b
    stateQ := 0x00#8
    stepDoneQ := false
    speedUnit := if speedEnable then some (SpeedUnit.reset b) else none
    inputs := [] }

/-- The machine right after reset (R27): a full-step instance with the speed unit and the default period of 500 ms
(R5). MODE and SPEED_ENABLE are open in the spec. DESIGN CHOICE, log 2. -/
def State.reset : State := State.resetOf Build.default true

/-- The values of the output ports (R26). `speed_o` and `period_o` exist only with the speed unit. -/
structure Outputs where
  stateO : Byte
  dirO : Dir
  stepDoneO : Bool
  speedO : Option Word16
  periodO : Option Word16
  deriving DecidableEq, Repr

end Sys2Proof.Machine
end

