-- ==== Sys2Proof/Machine/Flags.lean ====
section
/-! DEFINITION. The fields of a state byte (spec/30_encoding.md R40), the block's only flags, which are its two direction
bits (spec/10_state.md R12, R21), and the rule of `step_done_q` (R14). -/

namespace Sys2Proof.Machine

/-- The graph node of a state byte, bits 3:0 (R11, R40). -/
def nodeOf (b : Byte) : Nibble := b.extractLsb' 0 4

/-- The direction field of a state byte, bits 5:4 (R12, R40). -/
def dirOf (b : Byte) : Dir := b.extractLsb' 4 2

/-- The unused bits of a state byte, bits 7:6 (R13). -/
def zeroOf (b : Byte) : BitVec 2 := b.extractLsb' 6 2

/-- The CW flag, bit 4 (R12). -/
def cwFlag (b : Byte) : Bool := b.getLsbD 4

/-- The CCW flag, bit 5 (R12). -/
def ccwFlag (b : Byte) : Bool := b.getLsbD 5

/-- The direction code of an event (R43). -/
def dirCode : DirEvent → Dir
  | .none => 0b00#2
  | .cw => 0b01#2
  | .ccw => 0b10#2

/-- The event a direction code names; 0b11 is reserved and names none (R43). -/
def eventOf? (d : Dir) : Option DirEvent :=
  match d.toNat with
  | 0 => some .none
  | 1 => some .cw
  | 2 => some .ccw
  | _ => none

/-- A step with this direction code counts as a click, whatever its sign: `d != 0b00` (R80, R81). -/
def isClick (d : Dir) : Bool := d != 0b00#2

/-- `step_done_q` after an edge (R14). -/
def stepDoneNext (rst step : Bool) : Bool := !rst && step

/-- The state byte with a given event and node, bits 7:6 zero (R40). -/
def packByte (e : DirEvent) (n : Nibble) : Byte := 0b00#2 ++ dirCode e ++ n

/-- Node numbers of the full-step graph (R41). -/
def fullNodeValue : FullNode → Nibble
  | .start => 0x0#4
  | .cwFinal => 0x1#4
  | .cwBegin => 0x2#4
  | .cwNext => 0x3#4
  | .ccwBegin => 0x4#4
  | .ccwFinal => 0x5#4
  | .ccwNext => 0x6#4

/-- Node numbers of the half-step graph (R42). -/
def halfNodeValue : HalfNode → Nibble
  | .start => 0x0#4
  | .ccwBegin => 0x1#4
  | .cwBegin => 0x2#4
  | .startMid => 0x3#4
  | .cwBeginMid => 0x4#4
  | .ccwBeginMid => 0x5#4

/-- NODES, the number of graph nodes of a mode (R5). -/
def nodes : Mode → Nat
  | .fullStep => 7
  | .halfStep => 6

end Sys2Proof.Machine
end

