-- ==== Sys2Proof/Machine/Rom.lean ====
section
/-! DEFINITION. `transition_table_rom` (spec/20_memory.md R29, spec/40_transition_table.md R53 to R68): the hex tables of
R53, and beside them the same graph by node names as rules R55 to R67 give it row by row. STEP reads the hex tables. The
cells that the spec tags GK rest on its decision D6 (PRESUMED, log 8); the named graph's GK cells are marked. -/

namespace Sys2Proof.Machine

/-- One row of the table: its words for codes 00, 01, 10 and 11. -/
def romRow (w00 w01 w10 w11 : Byte) (code : Code) : Byte :=
  match code.toNat with
  | 0 => w00
  | 1 => w01
  | 2 => w10
  | _ => w11

/-- The full-step table (R53). Rows 7 to 15 are the degenerate rows (R68). -/
def fullStepWord (node : Nibble) (code : Code) : Byte :=
  match node.toNat with
  | 0 => romRow 0x00 0x04 0x02 0x00 code   -- START
  | 1 => romRow 0x10 0x01 0x00 0x03 code   -- CW_FINAL
  | 2 => romRow 0x00 0x00 0x02 0x03 code   -- CW_BEGIN
  | 3 => romRow 0x00 0x01 0x02 0x03 code   -- CW_NEXT
  | 4 => romRow 0x00 0x04 0x00 0x06 code   -- CCW_BEGIN
  | 5 => romRow 0x20 0x00 0x05 0x06 code   -- CCW_FINAL
  | 6 => romRow 0x00 0x04 0x05 0x06 code   -- CCW_NEXT
  | _ => romRow 0x00 0x00 0x00 0x00 code   -- degenerate

/-- The half-step table (R53). Rows 6 to 15 are the degenerate rows (R68). -/
def halfStepWord (node : Nibble) (code : Code) : Byte :=
  match node.toNat with
  | 0 => romRow 0x00 0x01 0x02 0x03 code   -- START
  | 1 => romRow 0x00 0x01 0x00 0x23 code   -- CCW_BEGIN
  | 2 => romRow 0x00 0x00 0x02 0x13 code   -- CW_BEGIN
  | 3 => romRow 0x00 0x04 0x05 0x03 code   -- START_MID
  | 4 => romRow 0x10 0x04 0x03 0x03 code   -- CW_BEGIN_MID
  | 5 => romRow 0x20 0x03 0x05 0x03 code   -- CCW_BEGIN_MID
  | _ => romRow 0x00 0x00 0x00 0x00 code   -- degenerate

/-- `TABLE_mode(node, code)` (R53). -/
def tableWord (mode : Mode) (node : Nibble) (code : Code) : Byte :=
  match mode with
  | .fullStep => fullStepWord node code
  | .halfStep => halfStepWord node code

/-- `ROMRead(mode, addr)`: the row is `addr[5:2]` and the column `addr[1:0]` (R29). Total, and the only memory read. -/
def romRead (mode : Mode) (addr : RomAddr) : Byte :=
  tableWord mode (addr.extractLsb' 2 4) (addr.extractLsb' 0 2)

/-- The byte of the instance's memory at an address: the ROM is the whole address map (R35). -/
def State.romByte (s : State) (addr : RomAddr) : Byte := romRead s.build.mode addr

/-! ### The graph by names -/

/-- The full-step graph, rules R55 to R61: the next node and the event. -/
def fullStepNext : FullNode → Code → FullNode × DirEvent
  | .start, code =>
    match code.toNat with
    | 0 => (.start, .none) | 1 => (.ccwBegin, .none) | 2 => (.cwBegin, .none) | _ => (.start, .none)         -- 11: GK
  | .cwFinal, code =>
    match code.toNat with
    | 0 => (.start, .cw) | 1 => (.cwFinal, .none) | 2 => (.start, .none) | _ => (.cwNext, .none)             -- 01, 11: GK
  | .cwBegin, code =>
    match code.toNat with
    | 0 => (.start, .none) | 1 => (.start, .none) | 2 => (.cwBegin, .none) | _ => (.cwNext, .none)           -- 10: GK
  | .cwNext, code =>
    match code.toNat with
    | 0 => (.start, .none) | 1 => (.cwFinal, .none) | 2 => (.cwBegin, .none) | _ => (.cwNext, .none)         -- 10, 11: GK
  | .ccwBegin, code =>
    match code.toNat with
    | 0 => (.start, .none) | 1 => (.ccwBegin, .none) | 2 => (.start, .none) | _ => (.ccwNext, .none)         -- 01: GK
  | .ccwFinal, code =>
    match code.toNat with
    | 0 => (.start, .ccw) | 1 => (.start, .none) | 2 => (.ccwFinal, .none) | _ => (.ccwNext, .none)          -- 10, 11: GK
  | .ccwNext, code =>
    match code.toNat with
    | 0 => (.start, .none) | 1 => (.ccwBegin, .none) | 2 => (.ccwFinal, .none) | _ => (.ccwNext, .none)      -- 01, 11: GK

/-- The half-step graph, rules R62 to R67: the next node and the event. -/
def halfStepNext : HalfNode → Code → HalfNode × DirEvent
  | .start, code =>
    match code.toNat with
    | 0 => (.start, .none) | 1 => (.ccwBegin, .none) | 2 => (.cwBegin, .none) | _ => (.startMid, .none)      -- 11: GK
  | .ccwBegin, code =>
    match code.toNat with
    | 0 => (.start, .none) | 1 => (.ccwBegin, .none) | 2 => (.start, .none) | _ => (.startMid, .ccw)         -- 01: GK
  | .cwBegin, code =>
    match code.toNat with
    | 0 => (.start, .none) | 1 => (.start, .none) | 2 => (.cwBegin, .none) | _ => (.startMid, .cw)           -- 10: GK
  | .startMid, code =>
    match code.toNat with
    | 0 => (.start, .none) | 1 => (.cwBeginMid, .none) | 2 => (.ccwBeginMid, .none) | _ => (.startMid, .none) -- 11: GK; nodes of 01, 10: GK
  | .cwBeginMid, code =>
    match code.toNat with
    | 0 => (.start, .cw) | 1 => (.cwBeginMid, .none) | 2 => (.startMid, .none) | _ => (.startMid, .none)     -- 01, 10, 11: GK
  | .ccwBeginMid, code =>
    match code.toNat with
    | 0 => (.start, .ccw) | 1 => (.startMid, .none) | 2 => (.ccwBeginMid, .none) | _ => (.startMid, .none)   -- 01, 10, 11: GK

/-- The code a full-step node is at (the physical meaning of the nodes, §2 of spec/40_transition_table.md). -/
def fullPosition : FullNode → Code
  | .start => 0b00#2
  | .cwBegin => 0b10#2
  | .cwNext => 0b11#2
  | .cwFinal => 0b01#2
  | .ccwBegin => 0b01#2
  | .ccwNext => 0b11#2
  | .ccwFinal => 0b10#2

/-- The code a half-step node is at (§3 of spec/40_transition_table.md). -/
def halfPosition : HalfNode → Code
  | .start => 0b00#2
  | .startMid => 0b11#2
  | .cwBegin => 0b10#2
  | .ccwBegin => 0b01#2
  | .cwBeginMid => 0b01#2
  | .ccwBeginMid => 0b10#2

end Sys2Proof.Machine
end

