-- ==== Sys2Proof/Machine/Operands.lean ====
section
/-! DEFINITION. How operands are assembled (spec/30_encoding.md R45, spec/20_memory.md R29) and the unsigned arithmetic of
the speed unit (spec/42_speed.md R90). -/

namespace Sys2Proof.Machine

/-- `sat_16(v)` is `min(v, 2^16 - 1)` (R7). -/
def sat16 (v : Nat) : Word16 := BitVec.ofNat 16 (min v 0xFFFF)

/-- The ROM address of a STEP: `{state_q[3:0], code}` (R29, R78). The direction bits take no part (R54). -/
def romAddr (stateQ : Byte) (code : Code) : RomAddr := nodeOf stateQ ++ code

/-- The word a STEP reads from the table (R73). -/
def nextByte (mode : Mode) (stateQ : Byte) (code : Code) : Byte := romRead mode (romAddr stateQ code)

/-- A period operand is accepted: `1 <= p and p <= 1000` (R86). -/
def periodInRange (p : Word16) : Bool := decide (1 ≤ p.toNat ∧ p.toNat ≤ maxPeriod)

/-- The click count after this step's event, saturating (R80, R81). -/
def countClick (clicks : Word16) (d : Dir) : Word16 :=
  if isClick d then sat16 (clicks.toNat + 1) else clicks

/-- `(now - last_q) mod 2^32` (R82). -/
def elapsed (now last : Time) : Time := now - last

/-- The window closes: `elapsed >= zext_32(period_q)` (R80, R82). -/
def windowCloses (period : Word16) (now last : Time) : Bool :=
  decide (period.toNat ≤ (elapsed now last).toNat)

/-- `1000 div period_q`, truncating (R83). A divisor of 0, which no register holds after reset (R15), gives a free value
(log 6). -/
def periodFactor (period : Word16) : Nat :=
  if period = 0#16 then Config.divByZero msPerSecond else msPerSecond / period.toNat

/-- The speed a closing window stores: `sat_16(c1 * (1000 div period_q))` (R83). -/
def speedValue (clicks period : Word16) : Word16 := sat16 (clicks.toNat * periodFactor period)

end Sys2Proof.Machine
end

