-- ==== Sys2Proof/Machine/Ops.lean ====
section
/-! DEFINITION. The shared operations the meanings are written over: the decoder's part of an edge, the speed window, the
period register's write, reset, and the output ports. Each reads the registers of one pre-edge state and returns the
post-edge values (spec/00_scope.md R7). The block takes no exception and returns from none (spec/60_exceptions.md R93,
R96, R97), so there is no operation for either. -/

namespace Sys2Proof.Machine

/-- `speed_window(d, now)` (R80): the click of this step counts first (R81), then the window is tested (R82) and either
closes (R83, R84) or stays open (R85). -/
def speedWindow (d : Dir) (now : Time) (u : SpeedUnit) : SpeedUnit :=
  let c1 := countClick u.clicksQ d
  if windowCloses u.periodQ now u.lastQ then
    { u with speedQ := speedValue c1 u.periodQ, clicksQ := 0#16, lastQ := now }
  else
    { u with clicksQ := c1 }

/-- The value `period_q` takes at a CFG_PERIOD: the operand if it is in range, the old value otherwise (R86). -/
def configuredPeriod (p old : Word16) : Word16 := if periodInRange p then p else old

/-- The registers after an edge that performs STEP (R73): the table word, `step_done_q`, and the speed window where the
speed unit exists. -/
def decoderEdge (code : Code) (now : Time) (s : State) : State :=
  let next := nextByte s.build.mode s.stateQ code
  { s with
    stateQ := next
    stepDoneQ := stepDoneNext false true
    speedUnit := s.speedUnit.map (speedWindow (dirOf next) now) }

/-- The registers after an edge that performs RESET (R104), whatever they were before. -/
def resetEdge (s : State) : State :=
  { s with
    stateQ := 0x00#8
    stepDoneQ := stepDoneNext true false
    speedUnit := s.speedUnit.map fun _ => SpeedUnit.reset s.build }

/-- The output ports: views of registers, with no side effect (R26, R88, R89). -/
def outputs (s : State) : Outputs :=
  { stateO := s.stateQ
    dirO := dirOf s.stateQ
    stepDoneO := s.stepDoneQ
    speedO := s.speedUnit.map (·.speedQ)
    periodO := s.speedUnit.map (·.periodQ) }

end Sys2Proof.Machine
end

