-- ==== Sys2Proof/Machine/Decoder.lean ====
section
/-! DEFINITION. The decoder family (spec/41_decoder_step.md): STEP and NOP. -/

namespace Sys2Proof.Machine

/-- STEP (R73): advance the decoder by one sample. It cannot fail. -/
def execStep (code : Code) (now : Time) (s : State) : Host.Outcome State Fault Refusal :=
  .next (decoderEdge code now s)

/-- NOP (R75): `step_done_q` falls and every other register holds. -/
def execNop (s : State) : Host.Outcome State Fault Refusal :=
  .next { s with stepDoneQ := stepDoneNext false false }

end Sys2Proof.Machine
end

