-- ==== Sys2Proof/Machine/Reset.lean ====
section
/-! DEFINITION. The reset family (spec/70_reset_and_hazards.md): RESET. -/

namespace Sys2Proof.Machine

/-- RESET (R104): the registers take the reset values of R27, whatever they held. -/
def execReset (s : State) : Host.Outcome State Fault Refusal :=
  .next (resetEdge s)

end Sys2Proof.Machine
end

