-- ==== Sys2Proof/Machine/Speed.lean ====
section
/-! DEFINITION. The speed family (spec/42_speed.md): CFG_PERIOD and STEP_CFG. Both exist only where the speed unit does
and are refused by name elsewhere (spec/30_encoding.md R48 item 2). -/

namespace Sys2Proof.Machine

/-- CFG_PERIOD (R86): set the sampling-window length, ignoring a value outside 1 to 1000. -/
def execCfgPeriod (period : Word16) (s : State) : Host.Outcome State Fault Refusal :=
  match s.speedUnit with
  | none => .refused .cfgPeriodWithoutSpeedUnit
  | some u =>
    .next { s with
      stepDoneQ := stepDoneNext false false
      speedUnit := some { u with periodQ := configuredPeriod period u.periodQ } }

/-- STEP_CFG (R87, R95): STEP and CFG_PERIOD from one pre-edge state. The window is tested, and its speed computed, with
the old period. -/
def execStepCfg (code : Code) (now : Time) (period : Word16) (s : State) : Host.Outcome State Fault Refusal :=
  match s.speedUnit with
  | none => .refused .cfgPeriodWithoutSpeedUnit
  | some u =>
    let next := nextByte s.build.mode s.stateQ code
    .next { s with
      stateQ := next
      stepDoneQ := stepDoneNext false true
      speedUnit :=
        some { speedWindow (dirOf next) now u with periodQ := configuredPeriod period u.periodQ } }

end Sys2Proof.Machine
end

