-- ==== Sys2Proof/Machine/Dispatch.lean ====
section
/-! DEFINITION. One arm per operation of the opcode map (spec/30_encoding.md R46). -/

namespace Sys2Proof.Machine

def exec (i : Instr) (s : State) : Host.Outcome State Fault Refusal :=
  match i with
  | .reset => Sys2Proof.Machine.execReset s
  | .nop => Sys2Proof.Machine.execNop s
  | .step code now => Sys2Proof.Machine.execStep code now s
  | .cfgPeriod period => Sys2Proof.Machine.execCfgPeriod period s
  | .stepCfg code now period => Sys2Proof.Machine.execStepCfg code now period s

end Sys2Proof.Machine
end

