-- ==== Sys2Proof/Machine/Edge.lean ====
section
/-! DEFINITION. One rising clock edge at given port values (spec/00_scope.md R8), and which port values an instance can be
given (spec/10_state.md R19). -/

namespace Sys2Proof.Machine

/-- The instance has the strobe ports that the edge asserts: the port `cfg_i` exists only where SPEED_ENABLE = 1 (R19).
`period_i` and `now_i` do not exist without the speed unit either, and no operation left there reads them (R44). -/
def portsExist (x : PortSample) (s : State) : Bool := !x.cfg || s.speedEnable

/-- `cycle(S, in)`: the edge at which the input ports are `x` (R8). Any input that asserts `cfg_i` on an instance without
that port is refused by name, `rst_i` or not (R19, R48 item 2, D17; log 4); every other input performs the operation it
decodes to. -/
def cycle (x : PortSample) (s : State) : Host.Outcome State Fault Refusal :=
  if portsExist x s then exec (decode x) s else .refused .cfgPeriodWithoutSpeedUnit

end Sys2Proof.Machine
end

