-- ==== Sys2Proof/Machine/Fetch.lean ====
section
/-! DEFINITION. Where an edge's port values come from. The block fetches nothing (spec/10_state.md R20): the environment
presents one command per edge, and State lists the edges to come (log 1). -/

namespace Sys2Proof.Machine

/-- The port values of the next edge, with the state that no longer lists them; none where the environment has supplied
no further edge. -/
def fetch (s : State) : Option (PortSample × State) :=
  match s.inputs with
  | [] => none
  | x :: rest => some (x, { s with inputs := rest })

/-- The stream with the opcode table's word `w` as the next edge, in the place of the edge that stood there, and the later
edges as they were. A number that is no command vector (a bit without a port) leaves no edge to fetch. -/
def streamWithWord (nbits w : Nat) (stream : List PortSample) : List PortSample :=
  match PortSample.ofWord nbits w with
  | .ok x => x :: stream.tail
  | .error _ => []

end Sys2Proof.Machine
end

