-- ==== Sys2Proof/Machine/Step.lean ====
section
/-! DEFINITION. The machine's step: one rising clock edge (spec/00_scope.md R8) with the port values supplied next. -/

namespace Sys2Proof.Machine

/-- One step is one edge, with the port values that `inputs` lists next. -/
def step (s : State) : Host.Outcome State Fault Refusal :=
  match fetch s with
  | none => .refused .noEdgeSupplied
  | some (x, t) => cycle x t

/-- The state whose next edge presents the opcode table's word `w`, with `now_i` = 0 (log 20). -/
def State.withFetchWord (s : State) (nbits w : Nat) : State :=
  { s with inputs := streamWithWord nbits w s.inputs }

end Sys2Proof.Machine
end

