-- ==== Sys2Proof/Machine/Pseudo.lean ====
section
/-! DEFINITION. The pseudo-operations of the operation-stream notation (spec/30_encoding.md R52): each is the list of
operations it expands to, one edge each. The notation's own lines (R51) are what `encode` writes. -/

namespace Sys2Proof.Machine

/-- `NOP*<n>`: `n` lines NOP. -/
def nopTimes (n : Nat) : List Instr := List.replicate n .nop

/-- `SEQ <c1>,...,<ck> @<t>`: `k` STEPs, all with `now_i = t`. -/
def seqAt (codes : List Code) (t : Time) : List Instr := codes.map fun c => .step c t

/-- `DETENT_CW @<t>`: `SEQ 10,11,01,00 @<t>`. -/
def detentCw (t : Time) : List Instr := seqAt [0b10#2, 0b11#2, 0b01#2, 0b00#2] t

/-- `DETENT_CCW @<t>`: `SEQ 01,11,10,00 @<t>`. -/
def detentCcw (t : Time) : List Instr := seqAt [0b01#2, 0b11#2, 0b10#2, 0b00#2] t

end Sys2Proof.Machine
end

