-- ==== Sys2Proof/Safety.lean ====
section
/-! DEFINITION. The terms that statements about the machine are made in: legal registers (the invariant), runs of
operations with the outputs they show, clicks as the environment counts them, the mirror symmetry of the graph, and what
of an operation the decoder sees. -/

namespace Sys2Proof.Machine

/-! ### Legal registers -/

/-- The words of the table that carry an event (spec/40_transition_table.md R70). -/
def eventWords : Mode → List Byte
  | .fullStep => [0x10#8, 0x20#8]
  | .halfStep => [0x13#8, 0x23#8, 0x10#8, 0x20#8]

/-- A legal state byte of a mode: bits 7:6 are 0 (R13), the node is a node of the graph (R11), the direction field is not
0b11 (R12), and a nonzero direction field stands only in an event word (R70). -/
abbrev LegalByte (m : Mode) (b : Byte) : Prop :=
  zeroOf b = 0b00#2 ∧ (nodeOf b).toNat < nodes m ∧ dirOf b ≠ 0b11#2 ∧ (dirOf b ≠ 0b00#2 → b ∈ eventWords m)

/-- A legal period: 1 to 1000 (R15). -/
abbrev LegalPeriod (p : Word16) : Prop := 1 ≤ p.toNat ∧ p.toNat ≤ 1000

/-- Every register of the state is legal, and so is the build's default period (R5, R11 to R13, R15). -/
abbrev State.Legal (s : State) : Prop :=
  LegalByte s.build.mode s.stateQ ∧ LegalPeriod s.build.defaultPeriod ∧ ∀ u ∈ s.speedUnit, LegalPeriod u.periodQ

/-! ### Runs -/

/-- Run operations one edge each, and list the output ports after each edge (R111); none where an operation is refused. -/
def observe : List Instr → State → Option (List Outputs × State)
  | [], s => some ([], s)
  | i :: rest, s =>
    match exec i s with
    | .next t => (observe rest t).map fun r => (outputs t :: r.1, r.2)
    | .fault _ => none
    | .refused _ => none

/-- What an environment counts as an event: `dir_o` nonzero in a cycle with `step_done_o` = 1 (R74). -/
def freshEvent (o : Outputs) : Bool := o.stepDoneO && isClick o.dirO

/-- The events of a run, as the environment counts them (R74). -/
def eventCount (os : List Outputs) : Nat := os.countP freshEvent

/-- The output ports the decoder drives. -/
def decoderOutputs (o : Outputs) : Byte × Dir × Bool := (o.stateO, o.dirO, o.stepDoneO)

/-- STEP operations with the given codes and times. -/
def steps (samples : List (Code × Time)) : List Instr := samples.map fun x => .step x.1 x.2

/-! ### The mirror: the two signals exchanged, and the two directions -/

/-- The code with signals A and B exchanged. -/
def mirrorCode (c : Code) : Code := c.extractLsb' 0 1 ++ c.extractLsb' 1 1

/-- The direction code with CW and CCW exchanged. -/
def mirrorDir (d : Dir) : Dir := d.extractLsb' 0 1 ++ d.extractLsb' 1 1

/-- The node on the other direction's path, by name (R41, R42). Degenerate nodes stay. -/
def mirrorNode (m : Mode) (n : Nibble) : Nibble :=
  match m, n.toNat with
  | .fullStep, 1 => fullNodeValue .ccwFinal
  | .fullStep, 2 => fullNodeValue .ccwBegin
  | .fullStep, 3 => fullNodeValue .ccwNext
  | .fullStep, 4 => fullNodeValue .cwBegin
  | .fullStep, 5 => fullNodeValue .cwFinal
  | .fullStep, 6 => fullNodeValue .cwNext
  | .halfStep, 1 => halfNodeValue .cwBegin
  | .halfStep, 2 => halfNodeValue .ccwBegin
  | .halfStep, 4 => halfNodeValue .ccwBeginMid
  | .halfStep, 5 => halfNodeValue .cwBeginMid
  | _, _ => n

/-- The state byte of the mirrored position. -/
def mirrorByte (m : Mode) (b : Byte) : Byte := zeroOf b ++ mirrorDir (dirOf b) ++ mirrorNode m (nodeOf b)

/-- The state of an encoder turned the other way: every register but `state_q` alike. -/
def mirrorState (s : State) : State := { s with stateQ := mirrorByte s.build.mode s.stateQ }

/-- The operation with the two signals exchanged. -/
def mirrorInstr : Instr → Instr
  | .reset => .reset
  | .nop => .nop
  | .step code now => .step (mirrorCode code) now
  | .cfgPeriod period => .cfgPeriod period
  | .stepCfg code now period => .stepCfg (mirrorCode code) now period

/-- The output ports of the mirrored state. -/
def mirrorOutputs (m : Mode) (o : Outputs) : Outputs :=
  { o with stateO := mirrorByte m o.stateO, dirO := mirrorDir o.dirO }

/-! ### What the decoder sees of an operation -/

/-- The part of an operation that the state machine reads: reset, no sample, or a code. -/
inductive DecoderView where
  | reset
  | hold
  | sample (code : Code)
  deriving DecidableEq, Repr

/-- The decoder's view of an operation: no time, no period, no difference between NOP and CFG_PERIOD. -/
def decoderView : Instr → DecoderView
  | .reset => .reset
  | .nop => .hold
  | .step code _ => .sample code
  | .cfgPeriod _ => .hold
  | .stepCfg code _ _ => .sample code

end Sys2Proof.Machine
end

