-- ==== Sys2Proof/WellFormed.lean ====
section
/-! DEFINITION. Which operations exist on an instance, and which builds the spec allows. The operand widths are in the
types, so every operand value is well formed (spec/30_encoding.md R48 items 1 and 3). -/

namespace Sys2Proof

/-- The operation exists on an instance whose SPEED_ENABLE is `speedEnable`: without the speed unit there is no port
`cfg_i`, so CFG_PERIOD and STEP_CFG do not exist (R48 item 2). -/
def Instr.wellFormed (speedEnable : Bool) : Instr → Bool
  | .reset => true
  | .nop => true
  | .step _ _ => true
  | .cfgPeriod _ => speedEnable
  | .stepCfg _ _ _ => speedEnable

/-- DEFAULT_PERIOD lies in 1 to 1000 (R5). -/
def Build.wellFormed (b : Build) : Bool :=
  decide (1 ≤ b.defaultPeriod.toNat ∧ b.defaultPeriod.toNat ≤ maxPeriod)

end Sys2Proof
end

