-- ==== Sys2Proof/Certificates/Slice0/Obligations.lean ====
section
/-! DEFINITION. The statements about the model, for the provers. Each docstring names the rule or section of spec/ it
formalises. Where a statement rests on a decision that the spec marks as its own (D<n> of spec/92_eei_decisions.md), on a
GK cell of the table (D6), or on a choice of the model (a row of notes/assumptions/), the docstring says so. -/

open Sys2Proof Sys2Proof.Machine

/-! ### Encoding -/

/-- Decoding what the encoder writes gives the operation back, with every operand at every value (encoding strings of
spec/30_encoding.md R46). The same from the table's number where `now_i` is 0 (log 20: the side operand is no part of the
table's word). Rests on the command vector of D23. -/
def Obligations.DecodeOfEncode : Prop :=
  ∀ i : Instr,
    decode (encode i) = i ∧
    ((encode i).now = 0#32 → decodeTableWord 24 (encode i).vec.toNat = some i)

/-- Encoding what the decoder reads gives the vector back with exactly the bits cleared that the operation's encoding
string marks `x`, and `now_i` kept exactly where STEP samples it (spec/30_encoding.md section 2, D23). -/
def Obligations.EncodeOfDecodeClearsIgnoredBits : Prop :=
  ∀ x : PortSample,
    (x.rst = true → encode (decode x) = ⟨x.vec &&& 0x100000#21, 0#32⟩) ∧
    (x.rst = false → x.step = false → x.cfg = false → encode (decode x) = ⟨x.vec &&& 0x1C0000#21, 0#32⟩) ∧
    (x.rst = false → x.step = true → x.cfg = false → encode (decode x) = ⟨x.vec &&& 0x1F0000#21, x.now⟩) ∧
    (x.rst = false → x.step = false → x.cfg = true → encode (decode x) = ⟨x.vec &&& 0x1CFFFF#21, 0#32⟩) ∧
    (x.rst = false → x.step = true → x.cfg = true → encode (decode x) = ⟨x.vec &&& 0x1FFFFF#21, x.now⟩)

/-- R46: the five rows, with their match and mask, cover every 21-bit vector exactly once, and the decoder tests RESET
first and then matches `vec & 0x1C0000` against the other four, with `c` in bits 17:16 and `p` in bits 15:0. -/
def Obligations.OpcodeMapCoversEveryVectorOnce : Prop :=
  opcodeRows = [⟨"RESET", 0x100000#21, 0x100000#21⟩, ⟨"NOP", 0x000000#21, 0x1C0000#21⟩,
    ⟨"STEP", 0x080000#21, 0x1C0000#21⟩, ⟨"CFG_PERIOD", 0x040000#21, 0x1C0000#21⟩,
    ⟨"STEP_CFG", 0x0C0000#21, 0x1C0000#21⟩] ∧
  (∀ (v : CmdVec) (now : Time), ∃ r ∈ opcodeRows,
    v &&& r.mask = r.pattern ∧ (decode ⟨v, now⟩).mnemonic = r.mnemonic ∧
    ∀ r' ∈ opcodeRows, v &&& r'.mask = r'.pattern → r' = r) ∧
  (∀ (v : CmdVec) (now : Time),
    decode ⟨v, now⟩ =
      if v &&& 0x100000#21 = 0x100000#21 then .reset
      else if v &&& 0x1C0000#21 = 0x000000#21 then .nop
      else if v &&& 0x1C0000#21 = 0x080000#21 then .step (v.extractLsb' 16 2) now
      else if v &&& 0x1C0000#21 = 0x040000#21 then .cfgPeriod (v.extractLsb' 0 16)
      else .stepCfg (v.extractLsb' 16 2) now (v.extractLsb' 0 16))

/-- The vectors of spec/95_test_vectors.md section L2-8 decode as it lists them. -/
def Obligations.SampleWordsDecodeAsListed : Prop :=
  [0x000000#21, 0x03FFFF#21, 0x080000#21, 0x0BFFFF#21, 0x0403E8#21, 0x070064#21, 0x0E0064#21, 0x100000#21,
    0x1FFFFF#21].map (fun v => decode ⟨v, 7#32⟩) =
  [.nop, .nop, .step 0b00#2 7#32, .step 0b11#2 7#32, .cfgPeriod 1000#16, .cfgPeriod 100#16,
    .stepCfg 0b10#2 7#32 100#16, .reset, .reset]

/-- A step is the decoded operation of the next edge, run on the state that no longer lists that edge (R8, R20; the stream
`inputs` is the model's own, log 1), and no operation changes the stream. An edge that asserts the port `cfg_i` on an
instance without it is refused by name (spec/10_state.md section 3, D17; log 4). Where no edge is supplied the step is
refused by name: the model's choice, log 1. -/
def Obligations.StepRunsTheDecodedOperation : Prop :=
  (∀ (s : State) (x : PortSample) (rest : List PortSample), s.inputs = x :: rest →
    (x.cfg = false ∨ s.speedUnit.isSome = true) → step s = exec (decode x) { s with inputs := rest }) ∧
  (∀ (s : State) (x : PortSample) (rest : List PortSample), s.inputs = x :: rest →
    x.cfg = true → s.speedUnit = none → step s = .refused .cfgPeriodWithoutSpeedUnit) ∧
  (∀ (i : Instr) (s t : State), exec i s = .next t → t.inputs = s.inputs) ∧
  (∀ s : State, s.inputs = [] → step s = .refused .noEdgeSupplied)

/-- A number that is a command vector decodes as the ports with `now_i` = 0 do, one with a bit where no port is decodes to
nothing, and placing a decodable number makes the very next step run its operation, or refuse it by name where its bit 18 is
the port `cfg_i` that the instance lacks (R44, R51; D17; log 1, log 20: the model's choice of how a program is supplied). -/
def Obligations.TableWordRunsAsTheNextEdge : Prop :=
  (∀ w : Nat, w < 2 ^ 21 → decodeTableWord 24 w = some (decode ⟨BitVec.ofNat 21 w, 0#32⟩)) ∧
  (∀ w : Nat, 2 ^ 21 ≤ w → w < 2 ^ 24 → decodeTableWord 24 w = none) ∧
  (∀ (s : State) (nbits w : Nat) (i : Instr), decodeTableWord nbits w = some i →
    ((w % 2 ^ nbits).testBit 18 = false ∨ s.speedUnit.isSome = true →
      step (s.withFetchWord nbits w) = exec i { s with inputs := s.inputs.tail }) ∧
    ((w % 2 ^ nbits).testBit 18 = true → s.speedUnit = none →
      step (s.withFetchWord nbits w) = .refused .cfgPeriodWithoutSpeedUnit))

/-- Steps run a supplied stream: where a list of operations completes, as many steps of the machine from the same registers,
with the encoded operations as the stream, end in the same registers with the stream used up (spec/00_scope.md section 5,
spec/30_encoding.md section 4; the stream is the model's own, log 1). -/
def Obligations.StepsRunTheEncodedStream : Prop :=
  ∀ (ops : List Instr) (s z : State) (os : List Outputs), observe ops s = some (os, z) →
    Sys2Proof.core.run ops.length { s with inputs := ops.map encode } = .next { z with inputs := [] }

/-! ### The table -/

/-- `transition_table_rom`, all 64 words of each mode, by address `{node, code}` (hex tables of
spec/40_transition_table.md section 1, degenerate rows of its section 4). The GK cells rest on D6, the layout on D4, the
node numbers on D5, the degenerate rows on D7 (log 8, log 9, log 25). -/
def Obligations.RomHoldsTheHexTables : Prop :=
  (List.range 64).map (fun a => romRead .fullStep (BitVec.ofNat 6 a)) =
    [0x00#8, 0x04#8, 0x02#8, 0x00#8, 0x10#8, 0x01#8, 0x00#8, 0x03#8, 0x00#8, 0x00#8, 0x02#8, 0x03#8, 0x00#8, 0x01#8, 0x02#8,
      0x03#8, 0x00#8, 0x04#8, 0x00#8, 0x06#8, 0x20#8, 0x00#8, 0x05#8, 0x06#8, 0x00#8, 0x04#8, 0x05#8, 0x06#8]
      ++ List.replicate 36 0x00#8 ∧
  (List.range 64).map (fun a => romRead .halfStep (BitVec.ofNat 6 a)) =
    [0x00#8, 0x01#8, 0x02#8, 0x03#8, 0x00#8, 0x01#8, 0x00#8, 0x23#8, 0x00#8, 0x00#8, 0x02#8, 0x13#8, 0x00#8, 0x04#8, 0x05#8,
      0x03#8, 0x10#8, 0x04#8, 0x03#8, 0x03#8, 0x20#8, 0x03#8, 0x05#8, 0x03#8]
      ++ List.replicate 40 0x00#8

/-- The hex tables agree with the rows that rules R55 to R67 give by node names and events, under the state-byte layout and
the node numbers (spec/40_transition_table.md sections 2 and 3; D4, D5, D6). -/
def Obligations.RomEncodesTheNamedGraph : Prop :=
  (∀ (n : FullNode) (c : Code),
    romRead .fullStep (fullNodeValue n ++ c) = packByte (fullStepNext n c).2 (fullNodeValue (fullStepNext n c).1)) ∧
  (∀ (n : HalfNode) (c : Code),
    romRead .halfStep (halfNodeValue n ++ c) = packByte (halfStepNext n c).2 (halfNodeValue (halfStepNext n c).1))

/-! ### STEP: the decoder -/

/-- R78: the only memory access is the ROM read of STEP, at `{state_q[3:0], code}`, the word used whole; the operations
that are no STEP read no memory (they do the same whichever table the instance has); and no operation writes memory. -/
def Obligations.StepReadsOneRomWord : Prop :=
  (∀ (c : Code) (t : Time) (s : State), ∃ s', exec (.step c t) s = .next s' ∧
    s'.stateQ = s.romByte (s.stateQ.extractLsb' 0 4 ++ c)) ∧
  (∀ (c : Code) (t : Time) (p : Word16) (s : State), s.speedUnit.isSome = true →
    ∃ s', exec (.stepCfg c t p) s = .next s' ∧ s'.stateQ = s.romByte (s.stateQ.extractLsb' 0 4 ++ c)) ∧
  (∀ (i : Instr) (s s' : State) (m : Mode), (i = .reset ∨ i = .nop ∨ ∃ p, i = .cfgPeriod p) → exec i s = .next s' →
    exec i { s with build := { s.build with mode := m } } = .next { s' with build := { s'.build with mode := m } }) ∧
  (∀ (i : Instr) (s s' : State), exec i s = .next s' → ∀ a : RomAddr, s'.romByte a = s.romByte a)

/-- R54: only the node field selects the row, so a state byte with any other upper bits steps exactly alike; 0x10 steps
like 0x00. -/
def Obligations.DirectionBitsDoNotSelectTheRow : Prop :=
  (∀ (s : State) (b : Byte) (c : Code) (t : Time), b.extractLsb' 0 4 = s.stateQ.extractLsb' 0 4 →
    exec (.step c t) { s with stateQ := b } = exec (.step c t) s) ∧
  (∀ (s : State) (b : Byte) (c : Code) (t : Time) (p : Word16), b.extractLsb' 0 4 = s.stateQ.extractLsb' 0 4 →
    exec (.stepCfg c t p) { s with stateQ := b } = exec (.stepCfg c t p) s) ∧
  (∀ (s : State) (c : Code) (t : Time),
    exec (.step c t) { s with stateQ := 0x10#8 } = exec (.step c t) { s with stateQ := 0x00#8 })

/-- STEP on an instance without the speed unit completes from every state: the table word, `step_done_q` = 1, and nothing
else (spec/41_decoder_step.md, STEP; `step_done_q` rests on D9). -/
def Obligations.StepWithoutSpeedUnitResult : Prop :=
  ∀ (c : Code) (t : Time) (s : State), s.speedUnit = none →
    exec (.step c t) s =
      .next { s with stateQ := s.romByte (s.stateQ.extractLsb' 0 4 ++ c), stepDoneQ := true }

/-- STEP on an instance with the speed unit completes from every state whose period is not 0, with the speed window's
result: the step's own click counts first and saturates, the window closes when the elapsed time modulo 2^32 reaches the
period, and the speed is the count times the truncated quotient, saturated (spec/42_speed.md section 1; D9, D11, D12, D13,
D15). -/
def Obligations.StepWithSpeedUnitResult : Prop :=
  ∀ (c : Code) (t : Time) (s : State) (u : SpeedUnit) (w : Byte) (c1 : Nat),
    s.speedUnit = some u → u.periodQ ≠ 0#16 →
    w = s.romByte (s.stateQ.extractLsb' 0 4 ++ c) →
    c1 = (if w.extractLsb' 4 2 = 0b00#2 then u.clicksQ.toNat else min (u.clicksQ.toNat + 1) 65535) →
    exec (.step c t) s =
      .next { s with
        stateQ := w
        stepDoneQ := true
        speedUnit := some (
          if u.periodQ.toNat ≤ (t.toNat + 2 ^ 32 - u.lastQ.toNat) % 2 ^ 32 then
            { periodQ := u.periodQ, clicksQ := 0#16, lastQ := t,
              speedQ := BitVec.ofNat 16 (min (c1 * (1000 / u.periodQ.toNat)) 65535) }
          else
            { periodQ := u.periodQ, clicksQ := BitVec.ofNat 16 c1, lastQ := u.lastQ, speedQ := u.speedQ }) }

/-- A period of 0, which only a register value from before the first reset can be, has no stated quotient: STEP and
STEP_CFG complete all the same, the window closes, and the speed follows from a free quotient `q` (the model's choice, log
6; the rest of the effect is spec/42_speed.md section 1). -/
def Obligations.StepAtPeriodZeroCompletes : Prop :=
  ∃ q : Nat, ∀ (c : Code) (t : Time) (p : Word16) (s : State) (u : SpeedUnit) (w : Byte) (c1 : Nat),
    s.speedUnit = some u → u.periodQ = 0#16 →
    w = s.romByte (s.stateQ.extractLsb' 0 4 ++ c) →
    c1 = (if w.extractLsb' 4 2 = 0b00#2 then u.clicksQ.toNat else min (u.clicksQ.toNat + 1) 65535) →
    exec (.step c t) s =
      .next { s with
        stateQ := w
        stepDoneQ := true
        speedUnit := some ⟨0#16, 0#16, t, BitVec.ofNat 16 (min (c1 * q) 65535)⟩ } ∧
    exec (.stepCfg c t p) s =
      .next { s with
        stateQ := w
        stepDoneQ := true
        speedUnit := some ⟨if 1 ≤ p.toNat ∧ p.toNat ≤ 1000 then p else 0#16, 0#16, t,
          BitVec.ofNat 16 (min (c1 * q) 65535)⟩ }

/-- From any state at all, degenerate nodes and illegal bytes among them, a sample `00` brings the decoder to node START
(spec/40_transition_table.md section 5, which the spec derives from its table). -/
def Obligations.CodeZeroReturnsToStart : Prop :=
  ∀ (t : Time) (s : State), ∃ s', exec (.step 0b00#2 t) s = .next s' ∧ nodeOf s'.stateQ = 0x0#4

/-- STEP shows CW, or CCW, exactly on the table's completing cells, by node name and code, and never the reserved code
0b11 (spec/40_transition_table.md section 5; D4, D5 for the bits and numbers). -/
def Obligations.EventOnlyOnCompletingCells : Prop :=
  ∀ (c : Code) (t : Time) (s s' : State), exec (.step c t) s = .next s' →
    ((outputs s').dirO = 0b01#2 ↔
      (s.build.mode = .fullStep ∧ nodeOf s.stateQ = fullNodeValue .cwFinal ∧ c = 0b00#2) ∨
      (s.build.mode = .halfStep ∧ nodeOf s.stateQ = halfNodeValue .cwBegin ∧ c = 0b11#2) ∨
      (s.build.mode = .halfStep ∧ nodeOf s.stateQ = halfNodeValue .cwBeginMid ∧ c = 0b00#2)) ∧
    ((outputs s').dirO = 0b10#2 ↔
      (s.build.mode = .fullStep ∧ nodeOf s.stateQ = fullNodeValue .ccwFinal ∧ c = 0b00#2) ∨
      (s.build.mode = .halfStep ∧ nodeOf s.stateQ = halfNodeValue .ccwBegin ∧ c = 0b11#2) ∨
      (s.build.mode = .halfStep ∧ nodeOf s.stateQ = halfNodeValue .ccwBeginMid ∧ c = 0b00#2)) ∧
    (outputs s').dirO ≠ 0b11#2

/-- A sample of the code a node is at leaves the node and shows no event (spec/41_decoder_step.md, STEP, corner case 2; the
hold cells are GK, D6, log 8). -/
def Obligations.RepeatedSampleHoldsTheNode : Prop :=
  (∀ (n : FullNode) (t : Time) (s : State), s.build.mode = .fullStep → nodeOf s.stateQ = fullNodeValue n →
    ∃ s', exec (.step (fullPosition n) t) s = .next s' ∧ nodeOf s'.stateQ = nodeOf s.stateQ ∧
      (outputs s').dirO = 0b00#2) ∧
  (∀ (n : HalfNode) (t : Time) (s : State), s.build.mode = .halfStep → nodeOf s.stateQ = halfNodeValue n →
    ∃ s', exec (.step (halfPosition n) t) s = .next s' ∧ nodeOf s'.stateQ = nodeOf s.stateQ ∧
      (outputs s').dirO = 0b00#2)

/-- A code that differs from the current position in both bits never produces an event (spec/41_decoder_step.md, STEP,
corner case 3; some of these cells are GK, D6, log 8). -/
def Obligations.IllegalJumpGivesNoEvent : Prop :=
  (∀ (n : FullNode) (t : Time) (s : State), s.build.mode = .fullStep → nodeOf s.stateQ = fullNodeValue n →
    ∃ s', exec (.step (~~~(fullPosition n)) t) s = .next s' ∧ (outputs s').dirO = 0b00#2) ∧
  (∀ (n : HalfNode) (t : Time) (s : State), s.build.mode = .halfStep → nodeOf s.stateQ = halfNodeValue n →
    ∃ s', exec (.step (~~~(halfPosition n)) t) s = .next s' ∧ (outputs s').dirO = 0b00#2)

/-- From a degenerate node every sample gives the byte 0x00: node START, no event (spec/40_transition_table.md section 4,
D7, log 25). -/
def Obligations.DegenerateNodeStepsToStart : Prop :=
  ∀ (c : Code) (t : Time) (s : State), nodes s.build.mode ≤ (nodeOf s.stateQ).toNat →
    ∃ s', exec (.step c t) s = .next s' ∧ s'.stateQ = 0x00#8 ∧ s'.stepDoneQ = true

/-- Whatever byte `state_q` held, after STEP it is a legal state byte (spec/40_transition_table.md section 5, closure; the
layout rests on D4). -/
def Obligations.StepAlwaysLandsOnALegalByte : Prop :=
  ∀ (c : Code) (t : Time) (s : State), ∃ s', exec (.step c t) s = .next s' ∧ LegalByte s.build.mode s'.stateQ

/-- The clean detents, the reversal and the bounce, from any state at node START and at any times: the events each sample
shows, in both modes (spec/40_transition_table.md section 5, items 1 to 4; the half-step outcomes by 90_conflicts.md C3). -/
def Obligations.CleanDetentEvents : Prop :=
  ∀ (samples : List (Code × Time)) (s : State), nodeOf s.stateQ = 0x0#4 →
    ∃ os z, observe (steps samples) s = some (os, z) ∧
      (samples.map Prod.fst = [0b00#2, 0b10#2, 0b11#2, 0b01#2, 0b00#2] →
        os.map Outputs.dirO = match s.build.mode with
          | .fullStep => [0b00#2, 0b00#2, 0b00#2, 0b00#2, 0b01#2]
          | .halfStep => [0b00#2, 0b00#2, 0b01#2, 0b00#2, 0b01#2]) ∧
      (samples.map Prod.fst = [0b00#2, 0b01#2, 0b11#2, 0b10#2, 0b00#2] →
        os.map Outputs.dirO = match s.build.mode with
          | .fullStep => [0b00#2, 0b00#2, 0b00#2, 0b00#2, 0b10#2]
          | .halfStep => [0b00#2, 0b00#2, 0b10#2, 0b00#2, 0b10#2]) ∧
      (samples.map Prod.fst = [0b00#2, 0b10#2, 0b00#2] →
        os.map Outputs.dirO = [0b00#2, 0b00#2, 0b00#2] ∧ nodeOf z.stateQ = 0x0#4) ∧
      (samples.map Prod.fst = [0b00#2, 0b10#2, 0b00#2, 0b10#2, 0b00#2, 0b10#2, 0b11#2, 0b01#2, 0b00#2] →
        os.map Outputs.dirO = match s.build.mode with
          | .fullStep => [0b00#2, 0b00#2, 0b00#2, 0b00#2, 0b00#2, 0b00#2, 0b00#2, 0b00#2, 0b01#2]
          | .halfStep => [0b00#2, 0b00#2, 0b00#2, 0b00#2, 0b00#2, 0b00#2, 0b01#2, 0b00#2, 0b01#2])

/-- `DETENT_CW` and `DETENT_CCW` from node START, at any time, give one event in full step and two in half step, all of the
one direction, end at node START, and idle cycles after them add none (spec/30_encoding.md section 4, which derives it; in
half step the node between is a GK cell, D6). That an event counts where `step_done_o` marks it fresh, so that an idle cycle
holding an event's direction adds none, is spec/41_decoder_step.md, the duty that follows STEP, with D9 (log 18). -/
def Obligations.DetentPseudoOperationsGiveTheirEvents : Prop :=
  ∀ (t : Time) (n : Nat) (s : State), nodeOf s.stateQ = 0x0#4 →
    (∃ os z, observe (detentCw t ++ nopTimes n) s = some (os, z) ∧
      (eventCount os = match s.build.mode with | .fullStep => 1 | .halfStep => 2) ∧
      (∀ o ∈ os, freshEvent o = true → o.dirO = 0b01#2) ∧ nodeOf z.stateQ = 0x0#4) ∧
    (∃ os z, observe (detentCcw t ++ nopTimes n) s = some (os, z) ∧
      (eventCount os = match s.build.mode with | .fullStep => 1 | .halfStep => 2) ∧
      (∀ o ∈ os, freshEvent o = true → o.dirO = 0b10#2) ∧ nodeOf z.stateQ = 0x0#4)

/-- Turning the encoder the other way (the two signals exchanged) mirrors every run of every operation, from every state of
either mode: the state bytes go to the nodes of the other direction's path, CW and CCW are exchanged, and every other
register and output is the same (spec/40_transition_table.md section 2: the counter-clockwise sequence is the mirror of
the clockwise one; the GK cells rest on D6). -/
def Obligations.TurningTheOtherWayMirrorsEveryRun : Prop :=
  ∀ (ops : List Instr) (s : State),
    observe (ops.map mirrorInstr) (mirrorState s) =
      (observe ops s).map fun r => (r.1.map (mirrorOutputs s.build.mode), mirrorState r.2)

/-- Debounce by structure alone: however often two adjacent codes alternate, with idle cycles anywhere, at most one event
comes of it, from every state and in both modes (spec/40_transition_table.md section 5, item 5;
spec/70_reset_and_hazards.md section 4; the bounce-back and hold cells rest on D6; that an event counts where
`step_done_o` marks it fresh, so that an idle cycle holding an event's direction adds none, is spec/41_decoder_step.md with
D9, log 18). -/
def Obligations.BounceGivesAtMostOneEvent : Prop :=
  ∀ (a b : Code), (a ^^^ b = 0b01#2 ∨ a ^^^ b = 0b10#2) →
    ∀ (ops : List Instr), (∀ i ∈ ops, i = .nop ∨ ∃ c t, (c = a ∨ c = b) ∧ i = .step c t) →
      ∀ s : State, ∃ os z, observe ops s = some (os, z) ∧ eventCount os ≤ 1

/-! ### NOP -/

/-- R75: a cycle with no operation clears `step_done_q` and keeps `state_q` (its direction field with it), `period_q`,
`clicks_q`, `last_q` and `speed_q`, whatever `code_i`, `now_i` and `period_i` are; memory is untouched; 0x10 with
`step_done_q` = 1 gives 0x10 with `step_done_q` = 0. -/
def Obligations.NopOnlyClearsStepDone : Prop :=
  (∀ s : State, exec .nop s = .next { s with stepDoneQ := false }) ∧
  (∀ (x : PortSample) (s : State), x.vec &&& 0x1C0000#21 = 0x000000#21 →
    cycle x s = .next { s with stepDoneQ := false }) ∧
  (∀ (s s' : State), exec .nop s = .next s' → ∀ a : RomAddr, s'.romByte a = s.romByte a) ∧
  (∀ s : State, s.stateQ = 0x10#8 → s.stepDoneQ = true →
    ∃ s', exec .nop s = .next s' ∧ s'.stateQ = 0x10#8 ∧ s'.stepDoneQ = false)

/-! ### CFG_PERIOD and STEP_CFG -/

/-- CFG_PERIOD completes on every instance with the speed unit: an operand from 1 to 1000 is stored, any other is ignored,
`step_done_q` falls, and nothing else changes, so the window in progress goes on (spec/42_speed.md section 2; D9, D16). -/
def Obligations.CfgPeriodResult : Prop :=
  ∀ (p : Word16) (s : State) (u : SpeedUnit), s.speedUnit = some u →
    exec (.cfgPeriod p) s =
      .next { s with
        stepDoneQ := false
        speedUnit := some ⟨if 1 ≤ p.toNat ∧ p.toNat ≤ 1000 then p else u.periodQ, u.clicksQ, u.lastQ, u.speedQ⟩ }

/-- STEP_CFG completes on every instance with the speed unit whose period is not 0: the table word, `step_done_q` = 1, the
window tested and the speed computed with the OLD period, and the new period stored if it is in range (spec/42_speed.md
section 2; D9, D11, D12, D13, D15, D30). -/
def Obligations.StepCfgResult : Prop :=
  ∀ (c : Code) (t : Time) (p : Word16) (s : State) (u : SpeedUnit) (w : Byte) (c1 : Nat) (newPeriod : Word16),
    s.speedUnit = some u → u.periodQ ≠ 0#16 →
    w = s.romByte (s.stateQ.extractLsb' 0 4 ++ c) →
    c1 = (if w.extractLsb' 4 2 = 0b00#2 then u.clicksQ.toNat else min (u.clicksQ.toNat + 1) 65535) →
    newPeriod = (if 1 ≤ p.toNat ∧ p.toNat ≤ 1000 then p else u.periodQ) →
    exec (.stepCfg c t p) s =
      .next { s with
        stateQ := w
        stepDoneQ := true
        speedUnit := some (
          if u.periodQ.toNat ≤ (t.toNat + 2 ^ 32 - u.lastQ.toNat) % 2 ^ 32 then
            { periodQ := newPeriod, clicksQ := 0#16, lastQ := t,
              speedQ := BitVec.ofNat 16 (min (c1 * (1000 / u.periodQ.toNat)) 65535) }
          else
            { periodQ := newPeriod, clicksQ := BitVec.ofNat 16 c1, lastQ := u.lastQ, speedQ := u.speedQ }) }

/-- STEP_CFG is STEP followed by CFG_PERIOD, but for `step_done_q`, which stays 1 (spec/42_speed.md section 2: the writes
are disjoint; D30). -/
def Obligations.StepCfgIsStepThenPeriodWrite : Prop :=
  ∀ (c : Code) (t : Time) (p : Word16) (s : State), s.speedUnit.isSome = true →
    ∃ s1 s2, exec (.step c t) s = .next s1 ∧ exec (.cfgPeriod p) s1 = .next s2 ∧
      exec (.stepCfg c t p) s = .next { s2 with stepDoneQ := true }

/-- Where SPEED_ENABLE = 0 the port `cfg_i` does not exist: CFG_PERIOD and STEP_CFG are refused by name
(spec/30_encoding.md section 3, item 2; D17; log 5). -/
def Obligations.CfgOperationsNeedTheSpeedUnit : Prop :=
  ∀ (c : Code) (t : Time) (p : Word16) (s : State), s.speedUnit = none →
    exec (.cfgPeriod p) s = .refused .cfgPeriodWithoutSpeedUnit ∧
    exec (.stepCfg c t p) s = .refused .cfgPeriodWithoutSpeedUnit

/-- On an instance with SPEED_ENABLE = 0 the speed unit's registers and ports do not exist: any input that asserts `cfg_i`
is refused, `rst_i` or not; `speed_o` and `period_o` are absent; no edge makes the registers; and `period_i` and `now_i`
play no part, since two edges that agree in the ports that do exist, and in `cfg_i`, do the same (spec/10_state.md section 3,
spec/30_encoding.md sections 2 and 3; D17; that the refusal holds beside `rst_i` is log 4). -/
def Obligations.WithoutSpeedUnitItsPortsDoNotExist : Prop :=
  ∀ s : State, s.speedUnit = none →
    (∀ x : PortSample, x.cfg = true → cycle x s = .refused .cfgPeriodWithoutSpeedUnit) ∧
    (outputs s).speedO = none ∧ (outputs s).periodO = none ∧
    (∀ (x : PortSample) (s' : State), cycle x s = .next s' → s'.speedUnit = none) ∧
    (∀ x y : PortSample, x.vec.extractLsb' 16 5 = y.vec.extractLsb' 16 5 → cycle x s = cycle y s)

/-- Nothing else is ever refused and nothing faults: an edge completes unless it asserts `cfg_i` on an instance without the
speed unit, and is then refused under that name; and an operation completes exactly where it is well formed for the instance
(spec/60_exceptions.md section 1, spec/30_encoding.md section 3, spec/10_state.md section 3; D17; log 4). -/
def Obligations.OnlyTheMissingPortIsRefused : Prop :=
  (∀ (x : PortSample) (s : State), (∃ t, cycle x s = .next t) ↔ ¬(s.speedUnit = none ∧ x.cfg = true)) ∧
  (∀ (x : PortSample) (s : State) (r : Refusal), cycle x s = .refused r → r = .cfgPeriodWithoutSpeedUnit) ∧
  (∀ (x : PortSample) (s : State) (f : Fault), cycle x s ≠ .fault f) ∧
  (∀ (i : Instr) (s : State), (∃ t, exec i s = .next t) ↔ i.wellFormed s.speedEnable = true) ∧
  (∀ (i : Instr) (s : State) (r : Refusal), exec i s = .refused r → r = .cfgPeriodWithoutSpeedUnit) ∧
  (∀ (i : Instr) (s : State) (f : Fault), exec i s ≠ .fault f)

/-! ### The speed window -/

/-- R84: where the window closes, at a STEP or a STEP_CFG, `clicks_q` becomes 0 and `last_q` becomes `now`, so the new
window starts at the closing step's time. -/
def Obligations.WindowCloseRestartsTheWindow : Prop :=
  ∀ (c : Code) (t : Time) (p : Word16) (s : State) (u : SpeedUnit) (i : Instr),
    s.speedUnit = some u → u.periodQ.toNat ≤ (t - u.lastQ).toNat → (i = .step c t ∨ i = .stepCfg c t p) →
    ∃ s' u', exec i s = .next s' ∧ s'.speedUnit = some u' ∧ u'.clicksQ = 0#16 ∧ u'.lastQ = t

/-- R85: while the window is open, at a STEP or a STEP_CFG, `clicks_q` takes the counted value `c1`, and `speed_q` and
`last_q` keep theirs. (How `c1` saturates is stated with STEP's result.) -/
def Obligations.OpenWindowKeepsSpeedAndBoundary : Prop :=
  ∀ (c : Code) (t : Time) (p : Word16) (s : State) (u : SpeedUnit) (i : Instr),
    s.speedUnit = some u → (t - u.lastQ).toNat < u.periodQ.toNat → (i = .step c t ∨ i = .stepCfg c t p) →
    ∃ s' u', exec i s = .next s' ∧ s'.speedUnit = some u' ∧ u'.speedQ = u.speedQ ∧ u'.lastQ = u.lastQ ∧
      u'.clicksQ = countClick u.clicksQ (outputs s').dirO

/-- R92: `now_i` matters only at STEP edges, it is not checked, and a time before `last_q` gives the elapsed time
`2^32 - (last_q - now)` and closes the window exactly when `last_q - now <= 2^32 - period_q`. -/
def Obligations.TimeMattersOnlyAtStepEdges : Prop :=
  (∀ (v : CmdVec) (n1 n2 : Time) (s : State), (v.getLsbD 20 = true ∨ v.getLsbD 19 = false) →
    cycle ⟨v, n1⟩ s = cycle ⟨v, n2⟩ s) ∧
  (∀ (c : Code) (t : Time) (p : Word16) (s : State) (u : SpeedUnit) (i : Instr),
    s.speedUnit = some u → LegalPeriod u.periodQ → t.toNat < u.lastQ.toNat → (i = .step c t ∨ i = .stepCfg c t p) →
    (elapsed t u.lastQ).toNat = 2 ^ 32 - (u.lastQ.toNat - t.toNat) ∧
    ∃ s' u', exec i s = .next s' ∧ s'.speedUnit = some u' ∧
      (u'.lastQ = t ↔ u.lastQ.toNat - t.toNat ≤ 2 ^ 32 - u.periodQ.toNat))

/-- With true times `t0` at the last boundary and `t1` now, the window closes exactly when the true difference, modulo
2^32, reaches the period, however the 32-bit clock wrapped in between; so one wrap is benign (spec/42_speed.md section 1,
D15). -/
def Obligations.ClockWrapIsBenign : Prop :=
  ∀ (c : Code) (t0 t1 : Nat) (s : State) (u : SpeedUnit),
    s.speedUnit = some u → u.lastQ = BitVec.ofNat 32 t0 → t0 ≤ t1 →
    ∃ s' u', exec (.step c (BitVec.ofNat 32 t1)) s = .next s' ∧ s'.speedUnit = some u' ∧
      (u.periodQ.toNat ≤ (t1 - t0) % 2 ^ 32 → u'.clicksQ = 0#16 ∧ u'.lastQ = BitVec.ofNat 32 t1) ∧
      ((t1 - t0) % 2 ^ 32 < u.periodQ.toNat → u'.lastQ = BitVec.ofNat 32 t0 ∧ u'.speedQ = u.speedQ)

/-- What a window measures: from a state whose window has just begun (no click counted), after any steps and idle cycles
inside the window, the step that ends it stores the number of events the environment could count over them, its own among
them, times `1000 div period_q`, both saturated; and a new window begins (spec/42_speed.md sections 1 and 4; D11, D12, D13,
D15; `step_done_o` as the mark of an event is D9). -/
def Obligations.SpeedIsTheEventsOfTheWindow : Prop :=
  ∀ (ops : List Instr) (c : Code) (t : Time) (s : State) (u : SpeedUnit),
    s.speedUnit = some u → u.clicksQ = 0#16 → LegalPeriod u.periodQ →
    (∀ i ∈ ops, i = .nop ∨ ∃ c' t', i = .step c' t' ∧ (t' - u.lastQ).toNat < u.periodQ.toNat) →
    u.periodQ.toNat ≤ (t - u.lastQ).toNat →
    ∃ os z, observe (ops ++ [.step c t]) s = some (os, z) ∧
      z.speedUnit = some
        { periodQ := u.periodQ, clicksQ := 0#16, lastQ := t,
          speedQ := BitVec.ofNat 16 (min (min (eventCount os) 65535 * (1000 / u.periodQ.toNat)) 65535) }

/-- Without a STEP nothing but the period changes, for however many cycles: no time passes for the window, the direction
field is held, and no held event counts again (spec/42_speed.md section 4, D14; spec/41_decoder_step.md, D8, D9). -/
def Obligations.IdleCyclesNeverUpdateTheSpeed : Prop :=
  ∀ (ops : List Instr) (s : State) (u : SpeedUnit),
    s.speedUnit = some u → (∀ i ∈ ops, i = .nop ∨ ∃ p, i = .cfgPeriod p) →
    ∃ os z u', observe ops s = some (os, z) ∧ z.speedUnit = some u' ∧
      u'.speedQ = u.speedQ ∧ u'.clicksQ = u.clicksQ ∧ u'.lastQ = u.lastQ ∧ z.stateQ = s.stateQ ∧
      eventCount os = 0 ∧
      ∀ o ∈ os, o.speedO = some u.speedQ ∧ o.stateO = s.stateQ ∧ o.dirO = s.stateQ.extractLsb' 4 2 ∧ o.stepDoneO = false

/-! ### Who writes what -/

/-- R15: `period_q` is written only by CFG_PERIOD (also as part of STEP_CFG) and by reset; an illegal write leaves the old
value; reset sets DEFAULT_PERIOD; so it keeps to 1 to 1000. -/
def Obligations.PeriodRegisterHoldsOnlyLegalValues : Prop :=
  ∀ (i : Instr) (s s' : State) (u u' : SpeedUnit),
    exec i s = .next s' → s.speedUnit = some u → s'.speedUnit = some u' →
    (LegalPeriod u.periodQ → LegalPeriod s.build.defaultPeriod → LegalPeriod u'.periodQ) ∧
    (u'.periodQ ≠ u.periodQ →
      i = .reset ∨ ∃ p, (i = .cfgPeriod p ∨ ∃ c t, i = .stepCfg c t p) ∧ LegalPeriod p ∧ u'.periodQ = p) ∧
    (∀ p, (i = .cfgPeriod p ∨ ∃ c t, i = .stepCfg c t p) →
      (LegalPeriod p → u'.periodQ = p) ∧ (¬LegalPeriod p → u'.periodQ = u.periodQ)) ∧
    (i = .reset → u'.periodQ = s.build.defaultPeriod)

/-- R17: `last_q` is the time at the last window boundary: a STEP (also as part of STEP_CFG) that closes a window stores
its time there, reset writes it, and nothing else does. -/
def Obligations.BoundaryTimeWrittenOnlyAtClose : Prop :=
  ∀ (i : Instr) (s s' : State) (u u' : SpeedUnit),
    exec i s = .next s' → s.speedUnit = some u → s'.speedUnit = some u' →
    (u'.lastQ ≠ u.lastQ →
      i = .reset ∨ ∃ c t, (i = .step c t ∨ ∃ p, i = .stepCfg c t p) ∧ u.periodQ.toNat ≤ (t - u.lastQ).toNat) ∧
    (∀ c t, (i = .step c t ∨ ∃ p, i = .stepCfg c t p) → u.periodQ.toNat ≤ (t - u.lastQ).toNat → u'.lastQ = t)

/-- `speed_q` is the most recently computed clicks-per-second value, unsigned and saturating: written only by a STEP (also
as part of STEP_CFG) that closes a window and by reset (spec/10_state.md section 3). The value rests on D11, D12 and D13,
the reset value on D26. -/
def Obligations.SpeedRegisterWrittenOnlyAtClose : Prop :=
  ∀ (i : Instr) (s s' : State) (u u' : SpeedUnit),
    exec i s = .next s' → s.speedUnit = some u → s'.speedUnit = some u' →
    (u'.speedQ ≠ u.speedQ →
      i = .reset ∨ ∃ c t, (i = .step c t ∨ ∃ p, i = .stepCfg c t p) ∧ u.periodQ.toNat ≤ (t - u.lastQ).toNat) ∧
    (∀ c t, (i = .step c t ∨ ∃ p, i = .stepCfg c t p) → u.periodQ ≠ 0#16 → u.periodQ.toNat ≤ (t - u.lastQ).toNat →
      u'.speedQ.toNat =
        min ((if (outputs s').dirO = 0b00#2 then u.clicksQ.toNat else min (u.clicksQ.toNat + 1) 65535)
          * (1000 / u.periodQ.toNat)) 65535) ∧
    (i = .reset → u'.speedQ = 0#16)

/-- R10: after each STEP `state_q` holds the table word the step read; reset writes it too (whatever byte was there, the
state after is the same); nothing else does. -/
def Obligations.StateByteWrittenOnlyByStepAndReset : Prop :=
  ∀ (i : Instr) (s s' : State), exec i s = .next s' →
    (∀ c t, (i = .step c t ∨ ∃ p, i = .stepCfg c t p) → s'.stateQ = s.romByte (s.stateQ.extractLsb' 0 4 ++ c)) ∧
    (i = .reset → ∀ b : Byte, exec .reset { s with stateQ := b } = .next s') ∧
    (s'.stateQ ≠ s.stateQ → i = .reset ∨ ∃ c t, i = .step c t ∨ ∃ p, i = .stepCfg c t p)

/-- `step_done_q` after every edge that completes is `(rst_i == 0) and (step_i == 1)`, and `step_done_o` shows it
(spec/10_state.md section 2, D9). -/
def Obligations.StepDonePulsesAfterStep : Prop :=
  ∀ (x : PortSample) (s s' : State), cycle x s = .next s' →
    s'.stepDoneQ = (!x.vec.getLsbD 20 && x.vec.getLsbD 19) ∧ (outputs s').stepDoneO = s'.stepDoneQ

/-- The frame of every operation: the build, the stream and every byte of memory stay; no operation makes or unmakes the
speed unit; NOP keeps every register but `step_done_q`; CFG_PERIOD keeps the state byte (and its flags) and every speed
register but `period_q`; STEP keeps `period_q` (spec/10_state.md section 1, the column "written by"; the stream is the
model's own, log 1). -/
def Obligations.OperationsKeepEverythingElse : Prop :=
  ∀ (i : Instr) (s s' : State), exec i s = .next s' →
    s'.build = s.build ∧ s'.inputs = s.inputs ∧ (∀ a : RomAddr, s'.romByte a = s.romByte a) ∧
    s'.speedEnable = s.speedEnable ∧
    (i = .nop → s'.stateQ = s.stateQ ∧ s'.speedUnit = s.speedUnit) ∧
    (∀ p, i = .cfgPeriod p → s'.stateQ = s.stateQ ∧
      ∀ u u', s.speedUnit = some u → s'.speedUnit = some u' →
        u'.clicksQ = u.clicksQ ∧ u'.lastQ = u.lastQ ∧ u'.speedQ = u.speedQ) ∧
    (∀ c t, i = .step c t → ∀ u u', s.speedUnit = some u → s'.speedUnit = some u' → u'.periodQ = u.periodQ)

/-! ### Reset and the invariant -/

/-- RESET completes from every state, whatever its registers hold, with the reset values in every register and nothing else
changed (spec/70_reset_and_hazards.md section 1; D3, D4, D9, D26). -/
def Obligations.ResetResult : Prop :=
  (∀ s : State, s.speedUnit = none →
    exec .reset s = .next { s with stateQ := 0x00#8, stepDoneQ := false }) ∧
  (∀ (s : State) (u : SpeedUnit), s.speedUnit = some u →
    exec .reset s =
      .next { s with stateQ := 0x00#8, stepDoneQ := false, speedUnit := some ⟨s.build.defaultPeriod, 0#16, 0#32, 0#16⟩ })

/-- With `rst_i` = 1 every other port that the instance has is ignored: any two such edges do the same, and that is RESET
(spec/30_encoding.md section 2, D3). An edge that also asserts the absent port `cfg_i` of an instance without the speed unit
is refused (spec/10_state.md section 3, D17; log 4). -/
def Obligations.ResetDominatesEveryStrobe : Prop :=
  ∀ (v : CmdVec) (now : Time) (s : State), v &&& 0x100000#21 = 0x100000#21 →
    ((v.getLsbD 18 = false ∨ s.speedUnit.isSome = true) →
      cycle ⟨v, now⟩ s = exec .reset s ∧ ∃ s', cycle ⟨v, now⟩ s = .next s') ∧
    (v.getLsbD 18 = true → s.speedUnit = none → cycle ⟨v, now⟩ s = .refused .cfgPeriodWithoutSpeedUnit)

/-- The registers of the machine right after reset (spec/10_state.md section 6; D4, D5, D9, D19, D26); the build of
`State.reset` and its empty stream are the model's choice (log 1, log 2). The same for every build: RESET takes any state of
an instance to the reset state of that build. -/
def Obligations.RegistersAfterReset : Prop :=
  State.reset.stateQ = 0x00#8 ∧ State.reset.stepDoneQ = false ∧
  State.reset.speedUnit = some { periodQ := 500#16, clicksQ := 0#16, lastQ := 0#32, speedQ := 0#16 } ∧
  State.reset.inputs = [] ∧
  ∀ s : State, exec .reset s = .next { State.resetOf s.build s.speedEnable with inputs := s.inputs }

/-- The reset state of every well-formed build, with or without the speed unit, is legal, and so is `State.reset`
(spec/10_state.md sections 2 and 6; the build of `State.reset` is the model's choice, log 2). -/
def Obligations.ResetStateIsLegal : Prop :=
  State.reset.Legal ∧
  ∀ (b : Build) (speedEnable : Bool), b.wellFormed = true → (State.resetOf b speedEnable).Legal

/-- Every step from a legal state, reachable or not, at every edge the environment can present, gives a legal state: the
state byte stays a byte of the mode's graph, with bits 7:6 zero, never 0b11, an event only in an event word, and the
period stays 1 to 1000 (spec/10_state.md sections 2 and 3, spec/40_transition_table.md section 5; D4, D6). -/
def Obligations.StepKeepsRegistersLegal : Prop :=
  ∀ s s' : State, s.Legal → step s = .next s' → s'.Legal

/-- What the decoder shows does not depend on the speed unit: two instances of one mode, with or without it, at the same
state byte, given operations that differ only in times and periods and in whether an idle cycle carries CFG_PERIOD, show
the same state, direction and `step_done_o` in every cycle (spec/41_decoder_step.md, STEP; spec/42_speed.md section 2: the
writes are disjoint; D9, D30). -/
def Obligations.EventsIndependentOfTheSpeedUnit : Prop :=
  ∀ (ops1 ops2 : List Instr) (s1 s2 : State) (r1 r2 : List Outputs × State),
    ops1.map decoderView = ops2.map decoderView → s1.build.mode = s2.build.mode → s1.stateQ = s2.stateQ →
    observe ops1 s1 = some r1 → observe ops2 s2 = some r2 →
    r1.1.map decoderOutputs = r2.1.map decoderOutputs ∧ r1.2.stateQ = r2.2.stateQ

/-! ### Outputs, and the first edges after reset -/

/-- The output ports are the registers (spec/10_state.md section 5, spec/42_speed.md section 3; D2, D27), and the speed
unit's ports exist exactly where the unit does. -/
def Obligations.OutputsShowTheRegisters : Prop :=
  (∀ s : State, (outputs s).stateO = s.stateQ ∧ (outputs s).dirO = s.stateQ.extractLsb' 4 2 ∧
    (outputs s).stepDoneO = s.stepDoneQ) ∧
  (∀ (s : State) (u : SpeedUnit), s.speedUnit = some u →
    (outputs s).speedO = some u.speedQ ∧ (outputs s).periodO = some u.periodQ) ∧
  (∀ s : State, s.speedUnit = none → (outputs s).speedO = none ∧ (outputs s).periodO = none)

/-- After RESET the first window runs from time 0: the first STEP, at time `t`, closes it exactly when `t` has reached
DEFAULT_PERIOD, and the speed is 0 either way (spec/70_reset_and_hazards.md section 1, D26). -/
def Obligations.FirstWindowRunsFromTimeZero : Prop :=
  ∀ (c : Code) (t : Time) (s : State), s.speedUnit.isSome = true → LegalPeriod s.build.defaultPeriod →
    ∃ s1 s2, exec .reset s = .next s1 ∧ exec (.step c t) s1 = .next s2 ∧
      s2.speedUnit = some
        { periodQ := s.build.defaultPeriod, clicksQ := 0#16, speedQ := 0#16,
          lastQ := if s.build.defaultPeriod.toNat ≤ t.toNat then t else 0#32 }

/-- An encoder that rests at another code when reset is released gives no event at its first sample, whatever the sample; a
first sample 11 stays at START in full step and goes to START_MID in half step (spec/70_reset_and_hazards.md section 1,
which derives it; the target of 11 is a GK cell, D6). -/
def Obligations.FirstSampleAfterResetGivesNoEvent : Prop :=
  ∀ (c : Code) (t : Time) (s : State), ∃ s1 s2, exec .reset s = .next s1 ∧ exec (.step c t) s1 = .next s2 ∧
    (outputs s2).dirO = 0b00#2 ∧
    (c = 0b11#2 → s2.stateQ = match s.build.mode with
      | .fullStep => 0x00#8
      | .halfStep => 0x03#8)
end

