-- ==== Sys2Proof/Laws/Decode.lean ====
section
/-! SUPPORT. What the decoder reads, strobe by strobe, and the ports of an encoded operation, field by field. -/

namespace Sys2Proof

/-! ### The decoder by its strobes (R46, R47) -/

theorem decode_of_rst {x : PortSample} (h : x.rst = true) : decode x = .reset := by
  simp only [decode, h]

theorem decode_of_idle {x : PortSample} (hr : x.rst = false) (hs : x.step = false) (hc : x.cfg = false) :
    decode x = .nop := by
  simp only [decode, hr, hs, hc]

theorem decode_of_step {x : PortSample} (hr : x.rst = false) (hs : x.step = true) (hc : x.cfg = false) :
    decode x = .step x.code x.now := by
  simp only [decode, hr, hs, hc]

theorem decode_of_cfg {x : PortSample} (hr : x.rst = false) (hs : x.step = false) (hc : x.cfg = true) :
    decode x = .cfgPeriod x.period := by
  simp only [decode, hr, hs, hc]

theorem decode_of_step_cfg {x : PortSample} (hr : x.rst = false) (hs : x.step = true) (hc : x.cfg = true) :
    decode x = .stepCfg x.code x.now x.period := by
  simp only [decode, hr, hs, hc]

/-! ### The opcode map's masks (R46) -/

/-- The RESET mask keeps `rst_i`. -/
theorem and_resetMask (v : CmdVec) : v &&& 0x100000#21 = if v.getLsbD 20 then 0x100000#21 else 0x000000#21 := by
  apply BitVec.eq_of_getLsbD_eq
  intro k hk
  cases h : v.getLsbD 20 <;> interval_cases k <;> simp [-BitVec.getLsbD_eq_getElem, h]

/-- A vector of three strobes and nothing else (R44). -/
def strobeWord (r s g : Bool) : CmdVec :=
  (if r then 0x100000#21 else 0#21) ||| (if s then 0x080000#21 else 0#21) ||| (if g then 0x040000#21 else 0#21)

/-- The mask of the other four rows keeps the three strobes. -/
theorem and_strobeMask (v : CmdVec) :
    v &&& 0x1C0000#21 = strobeWord (v.getLsbD 20) (v.getLsbD 19) (v.getLsbD 18) := by
  apply BitVec.eq_of_getLsbD_eq
  intro k hk
  cases h20 : v.getLsbD 20 <;> cases h19 : v.getLsbD 19 <;> cases h18 : v.getLsbD 18 <;>
    interval_cases k <;> simp [strobeWord, -BitVec.getLsbD_eq_getElem, h20, h19, h18]

/-! ### The fields of an encoded vector (R44) -/

/-- The code field of a vector built from fixed strobes, a code and a period. -/
theorem codeField_extract (f : CmdVec) (c : Code) (p : Word16) (hf : f &&& 0x03FFFF#21 = 0#21) :
    (f ||| codeField c ||| periodField p).extractLsb' 16 2 = c := by
  apply BitVec.eq_of_getLsbD_eq
  intro k hk
  have h (j : Nat) (hj : j < 18) : f.getLsbD j = false := by
    have := congrArg (fun v => v.getLsbD j) hf
    interval_cases j <;> simpa using this
  interval_cases k <;> simp [codeField, periodField, -BitVec.getLsbD_eq_getElem, h]

/-- The period field of a vector built from fixed strobes, a code and a period. -/
theorem periodField_extract (f : CmdVec) (c : Code) (p : Word16) (hf : f &&& 0x03FFFF#21 = 0#21) :
    (f ||| codeField c ||| periodField p).extractLsb' 0 16 = p := by
  apply BitVec.eq_of_getLsbD_eq
  intro k hk
  have h (j : Nat) (hj : j < 18) : f.getLsbD j = false := by
    have := congrArg (fun v => v.getLsbD j) hf
    interval_cases j <;> simpa using this
  interval_cases k <;> simp [codeField, periodField, -BitVec.getLsbD_eq_getElem, h]

/-- The strobes of such a vector are those of the fixed part. -/
theorem strobe_of_fields (f : CmdVec) (c : Code) (p : Word16) (k : Nat) (hk : k = 18 ∨ k = 19 ∨ k = 20) :
    (f ||| codeField c ||| periodField p).getLsbD k = f.getLsbD k := by
  rcases hk with rfl | rfl | rfl <;> simp [codeField, periodField]

end Sys2Proof
end

