-- ==== Sys2Proof/Laws/State.lean ====
section
/-! SUPPORT. What each field of the state is after each shared update. -/

namespace Sys2Proof.Machine

/-! ### An edge that performs STEP -/

@[simp] theorem decoderEdge_build (c : Code) (n : Time) (s : State) : (decoderEdge c n s).build = s.build := rfl
@[simp] theorem decoderEdge_inputs (c : Code) (n : Time) (s : State) : (decoderEdge c n s).inputs = s.inputs := rfl
@[simp] theorem decoderEdge_stepDoneQ (c : Code) (n : Time) (s : State) : (decoderEdge c n s).stepDoneQ = true := rfl
@[simp] theorem decoderEdge_stateQ (c : Code) (n : Time) (s : State) :
    (decoderEdge c n s).stateQ = nextByte s.build.mode s.stateQ c := rfl
@[simp] theorem decoderEdge_speedUnit (c : Code) (n : Time) (s : State) :
    (decoderEdge c n s).speedUnit = s.speedUnit.map (speedWindow (dirOf (nextByte s.build.mode s.stateQ c)) n) := rfl

/-! ### An edge that performs RESET -/

@[simp] theorem resetEdge_build (s : State) : (resetEdge s).build = s.build := rfl
@[simp] theorem resetEdge_inputs (s : State) : (resetEdge s).inputs = s.inputs := rfl
@[simp] theorem resetEdge_stepDoneQ (s : State) : (resetEdge s).stepDoneQ = false := rfl
@[simp] theorem resetEdge_stateQ (s : State) : (resetEdge s).stateQ = 0x00#8 := rfl
@[simp] theorem resetEdge_speedUnit (s : State) :
    (resetEdge s).speedUnit = s.speedUnit.map fun _ => SpeedUnit.reset s.build := rfl

/-! ### The speed unit at reset -/

@[simp] theorem SpeedUnit.reset_periodQ (b : Build) : (SpeedUnit.reset b).periodQ = b.defaultPeriod := rfl
@[simp] theorem SpeedUnit.reset_clicksQ (b : Build) : (SpeedUnit.reset b).clicksQ = 0#16 := rfl
@[simp] theorem SpeedUnit.reset_lastQ (b : Build) : (SpeedUnit.reset b).lastQ = 0#32 := rfl
@[simp] theorem SpeedUnit.reset_speedQ (b : Build) : (SpeedUnit.reset b).speedQ = 0#16 := rfl

/-! ### The mirrored state -/

@[simp] theorem mirrorState_build (s : State) : (mirrorState s).build = s.build := rfl
@[simp] theorem mirrorState_inputs (s : State) : (mirrorState s).inputs = s.inputs := rfl
@[simp] theorem mirrorState_stepDoneQ (s : State) : (mirrorState s).stepDoneQ = s.stepDoneQ := rfl
@[simp] theorem mirrorState_speedUnit (s : State) : (mirrorState s).speedUnit = s.speedUnit := rfl
@[simp] theorem mirrorState_stateQ (s : State) : (mirrorState s).stateQ = mirrorByte s.build.mode s.stateQ := rfl

/-! ### The output ports -/

@[simp] theorem outputs_stateO (s : State) : (outputs s).stateO = s.stateQ := rfl
@[simp] theorem outputs_dirO (s : State) : (outputs s).dirO = dirOf s.stateQ := rfl
@[simp] theorem outputs_stepDoneO (s : State) : (outputs s).stepDoneO = s.stepDoneQ := rfl
@[simp] theorem outputs_speedO (s : State) : (outputs s).speedO = s.speedUnit.map (·.speedQ) := rfl
@[simp] theorem outputs_periodO (s : State) : (outputs s).periodO = s.speedUnit.map (·.periodQ) := rfl

/-! ### `step_done_q` (R14) -/

@[simp] theorem stepDoneNext_reset (b : Bool) : stepDoneNext true b = false := rfl
@[simp] theorem stepDoneNext_running (b : Bool) : stepDoneNext false b = b := rfl

end Sys2Proof.Machine
end

