-- ==== Sys2Proof/Laws/Rom.lean ====
section
/-! SUPPORT. What is true of the table's words: each fact is checked once, over the 64 cells of each mode, and cited from
then on. -/

namespace Sys2Proof.Machine

/-- The node of a ROM address built from a node and a code. -/
theorem romAddr_node (n : Nibble) (c : Code) : (n ++ c : RomAddr).extractLsb' 2 4 = n := by
  revert n c; decide

/-- The code of a ROM address built from a node and a code. -/
theorem romAddr_code (n : Nibble) (c : Code) : (n ++ c : RomAddr).extractLsb' 0 2 = c := by
  revert n c; decide

/-- A read at `{node, code}` is the table's cell (R29, R53). -/
theorem romRead_append (m : Mode) (n : Nibble) (c : Code) : romRead m (n ++ c) = tableWord m n c := by
  simp only [romRead, romAddr_node, romAddr_code]

/-- The word a STEP reads depends on the state byte's node only (R54). -/
theorem nextByte_eq (m : Mode) (b : Byte) (c : Code) : nextByte m b c = tableWord m (nodeOf b) c :=
  romRead_append m (nodeOf b) c

/-- Every word of the table is a legal state byte (R70, R72). -/
theorem tableWord_legal (m : Mode) (n : Nibble) (c : Code) : LegalByte m (tableWord m n c) := by
  cases m <;> (revert n c; decide)

/-- The byte a STEP loads is legal, whatever byte was there (R72). -/
theorem nextByte_legal (m : Mode) (b : Byte) (c : Code) : LegalByte m (nextByte m b c) := by
  rw [nextByte_eq]; exact tableWord_legal m (nodeOf b) c

/-- Reset's byte is legal in every mode. -/
theorem resetByte_legal (m : Mode) : LegalByte m 0x00#8 := by cases m <;> decide

/-- The table is its own mirror: the mirrored node, sampled with the mirrored code, reads the mirrored word. -/
theorem tableWord_mirror (m : Mode) (n : Nibble) (c : Code) :
    tableWord m (mirrorNode m n) (mirrorCode c) = mirrorByte m (tableWord m n c) := by
  cases m <;> (revert n c; decide)

end Sys2Proof.Machine
end

