-- ==== Sys2Proof/Laws/Ops.lean ====
section
/-! SUPPORT. One lemma per shared operation and per case of it: the arithmetic of the speed unit (R90), the speed window
(R80), the period write (R86), what each operation answers, and the inversion of `exec`. -/

namespace Sys2Proof.Machine

/-! ### Arithmetic (R90) -/

/-- Saturation at 0xFFFF. -/
@[simp] theorem sat16_toNat (v : Nat) : (sat16 v).toNat = min v 65535 := by
  simp only [sat16, BitVec.toNat_ofNat]; omega

/-- No event, no click. -/
@[simp] theorem countClick_none (k : Word16) : countClick k 0b00#2 = k := rfl

/-- The click count in numbers (R81). -/
theorem countClick_toNat (k : Word16) (d : Dir) :
    (countClick k d).toNat = if d = 0b00#2 then k.toNat else min (k.toNat + 1) 65535 := by
  by_cases h : d = 0b00#2 <;> simp [countClick, isClick, h]

/-- Elapsed time in numbers (R82). -/
theorem elapsed_toNat (now last : Time) : (elapsed now last).toNat = (now.toNat + 2 ^ 32 - last.toNat) % 2 ^ 32 := by
  simp only [elapsed, BitVec.toNat_sub]; omega

/-- The window test in numbers (R82). -/
theorem windowCloses_iff (p : Word16) (now last : Time) :
    windowCloses p now last = true ↔ p.toNat ≤ (now - last).toNat :=
  decide_eq_true_iff

/-- The factor of a period that is not 0 (R83). -/
theorem periodFactor_of_ne_zero {p : Word16} (h : p ≠ 0#16) : periodFactor p = 1000 / p.toNat := if_neg h

/-- The factor of a period of 0 is the free value (log 6). -/
theorem periodFactor_zero : periodFactor 0#16 = Config.divByZero 1000 := rfl

/-- A legal period is not 0 (R15). -/
theorem LegalPeriod.ne_zero {p : Word16} (h : LegalPeriod p) : p ≠ 0#16 := by
  rintro rfl; exact absurd h.1 (by decide)

/-! ### The speed window (R80) -/

/-- A window that closes (R83, R84). -/
theorem speedWindow_of_closes {d : Dir} {now : Time} {u : SpeedUnit} (h : u.periodQ.toNat ≤ (now - u.lastQ).toNat) :
    speedWindow d now u =
      { periodQ := u.periodQ, clicksQ := 0#16, lastQ := now, speedQ := speedValue (countClick u.clicksQ d) u.periodQ } :=
  if_pos ((windowCloses_iff _ _ _).2 h)

/-- A window that stays open (R85). -/
theorem speedWindow_of_open {d : Dir} {now : Time} {u : SpeedUnit} (h : (now - u.lastQ).toNat < u.periodQ.toNat) :
    speedWindow d now u = { u with clicksQ := countClick u.clicksQ d } :=
  if_neg fun hc => absurd ((windowCloses_iff _ _ _).1 hc) (by omega)

/-- The window never writes `period_q` (R15). -/
@[simp] theorem speedWindow_periodQ (d : Dir) (now : Time) (u : SpeedUnit) :
    (speedWindow d now u).periodQ = u.periodQ := by
  simp only [speedWindow]; split <;> rfl

/-! ### The period write (R86) -/

theorem periodInRange_iff (p : Word16) : periodInRange p = true ↔ LegalPeriod p :=
  decide_eq_true_iff

theorem configuredPeriod_eq (p old : Word16) :
    configuredPeriod p old = if 1 ≤ p.toNat ∧ p.toNat ≤ 1000 then p else old := by
  simp only [configuredPeriod, periodInRange_iff, LegalPeriod]

/-- A period write keeps the period legal (R15). -/
theorem configuredPeriod_legal {p old : Word16} (h : LegalPeriod old) : LegalPeriod (configuredPeriod p old) := by
  rw [configuredPeriod_eq]; split
  · assumption
  · exact h

/-! ### What each operation answers -/

theorem exec_reset (s : State) : exec .reset s = .next (resetEdge s) := rfl
theorem exec_nop (s : State) : exec .nop s = .next { s with stepDoneQ := false } := rfl
theorem exec_step (c : Code) (n : Time) (s : State) : exec (.step c n) s = .next (decoderEdge c n s) := rfl

theorem exec_cfgPeriod_none {p : Word16} {s : State} (h : s.speedUnit = none) :
    exec (.cfgPeriod p) s = .refused .cfgPeriodWithoutSpeedUnit := by
  simp only [exec, execCfgPeriod, h]

theorem exec_cfgPeriod_some {p : Word16} {s : State} {u : SpeedUnit} (h : s.speedUnit = some u) :
    exec (.cfgPeriod p) s =
      .next { s with
        stepDoneQ := false
        speedUnit := some { u with periodQ := configuredPeriod p u.periodQ } } := by
  simp only [exec, execCfgPeriod, h, stepDoneNext_running]

theorem exec_stepCfg_none {c : Code} {n : Time} {p : Word16} {s : State} (h : s.speedUnit = none) :
    exec (.stepCfg c n p) s = .refused .cfgPeriodWithoutSpeedUnit := by
  simp only [exec, execStepCfg, h]

/-- STEP_CFG is a STEP edge whose period register is written as well (R87). -/
theorem exec_stepCfg_some {c : Code} {n : Time} {p : Word16} {s : State} {u : SpeedUnit} (h : s.speedUnit = some u) :
    exec (.stepCfg c n p) s =
      .next { decoderEdge c n s with
        speedUnit := some { speedWindow (dirOf (nextByte s.build.mode s.stateQ c)) n u with
          periodQ := configuredPeriod p u.periodQ } } := by
  simp only [exec, execStepCfg, h]; rfl

/-- All that an operation which completes can have done. -/
theorem exec_next_cases {i : Instr} {s t : State} (h : exec i s = .next t) :
    (i = .reset ∧ t = resetEdge s) ∨
    (i = .nop ∧ t = { s with stepDoneQ := false }) ∨
    (∃ c n, i = .step c n ∧ t = decoderEdge c n s) ∨
    (∃ p u, i = .cfgPeriod p ∧ s.speedUnit = some u ∧
      t = { s with stepDoneQ := false, speedUnit := some { u with periodQ := configuredPeriod p u.periodQ } }) ∨
    (∃ c n p u, i = .stepCfg c n p ∧ s.speedUnit = some u ∧
      t = { decoderEdge c n s with
        speedUnit := some { speedWindow (dirOf (nextByte s.build.mode s.stateQ c)) n u with
          periodQ := configuredPeriod p u.periodQ } }) := by
  cases i with
  | reset => rw [exec_reset] at h; injection h with h; exact .inl ⟨rfl, h.symm⟩
  | nop => rw [exec_nop] at h; injection h with h; exact .inr (.inl ⟨rfl, h.symm⟩)
  | step c n => rw [exec_step] at h; injection h with h; exact .inr (.inr (.inl ⟨c, n, rfl, h.symm⟩))
  | cfgPeriod p =>
    cases hu : s.speedUnit with
    | none => rw [exec_cfgPeriod_none hu] at h; exact absurd h (by simp)
    | some u =>
      rw [exec_cfgPeriod_some hu] at h; injection h with h
      exact .inr (.inr (.inr (.inl ⟨p, u, rfl, rfl, h.symm⟩)))
  | stepCfg c n p =>
    cases hu : s.speedUnit with
    | none => rw [exec_stepCfg_none hu] at h; exact absurd h (by simp)
    | some u =>
      rw [exec_stepCfg_some hu] at h; injection h with h
      exact .inr (.inr (.inr (.inr ⟨c, n, p, u, rfl, rfl, h.symm⟩)))

/-- No operation reads or writes the stream: with another stream an operation does the same and leaves that one. -/
theorem exec_with_inputs {i : Instr} {s t : State} (h : exec i s = .next t) (l : List PortSample) :
    exec i { s with inputs := l } = .next { t with inputs := l } := by
  rcases exec_next_cases h with ⟨rfl, rfl⟩ | ⟨rfl, rfl⟩ | ⟨c, n, rfl, rfl⟩ | ⟨p, u, rfl, hu, rfl⟩ | ⟨c, n, p, u, rfl, hu, rfl⟩
  · rfl
  · rfl
  · rfl
  · exact exec_cfgPeriod_some (s := { s with inputs := l }) hu
  · exact exec_stepCfg_some (s := { s with inputs := l }) hu

/-! ### Steps and runs -/

/-- Only `cfg_i` without the speed unit is a port that an instance lacks (R19). -/
theorem portsExist_iff (x : PortSample) (s : State) :
    portsExist x s = true ↔ x.cfg = false ∨ s.speedUnit.isSome = true := by
  simp [portsExist, State.speedEnable]

theorem portsExist_of_cfg {x : PortSample} (h : x.cfg = false) (s : State) : portsExist x s = true :=
  (portsExist_iff x s).2 (.inl h)

/-- Which ports exist does not depend on the edges to come. -/
@[simp] theorem portsExist_withInputs (x : PortSample) (s : State) (l : List PortSample) :
    portsExist x { s with inputs := l } = portsExist x s := rfl

/-- An edge at ports the instance has performs the decoded operation. -/
theorem cycle_of_ports {x : PortSample} {s : State} (h : portsExist x s = true) : cycle x s = exec (decode x) s :=
  if_pos h

/-- An edge that asserts the absent port is refused, whatever else it asserts (R19). -/
theorem cycle_missing_port {x : PortSample} {s : State} (hc : x.cfg = true) (hs : s.speedUnit = none) :
    cycle x s = .refused .cfgPeriodWithoutSpeedUnit :=
  if_neg (by simp [portsExist_iff, hc, hs])

/-- All that an edge which completes can have done. -/
theorem cycle_next {x : PortSample} {s t : State} (h : cycle x s = .next t) :
    portsExist x s = true ∧ exec (decode x) s = .next t := by
  cases hp : portsExist x s with
  | true => exact ⟨rfl, by rwa [cycle_of_ports hp] at h⟩
  | false =>
    have hn : cycle x s = .refused .cfgPeriodWithoutSpeedUnit := if_neg (by simp [hp])
    rw [hn] at h; cases h

/-- An operation that completes is presented through ports that its instance has. -/
theorem portsExist_encode {i : Instr} {s t : State} (h : exec i s = .next t) : portsExist (encode i) s = true := by
  rw [portsExist_iff]
  rcases exec_next_cases h with ⟨rfl, -⟩ | ⟨rfl, -⟩ | ⟨c, n, rfl, -⟩ | ⟨p, u, rfl, hu, -⟩ | ⟨c, n, p, u, rfl, hu, -⟩
  · exact .inl rfl
  · exact .inl rfl
  · exact .inl (by simp [encode, PortSample.cfg, codeField])
  · exact .inr (by simp [hu])
  · exact .inr (by simp [hu])

/-- A step fetches the next edge of the stream. -/
theorem step_of_cons {s : State} {x : PortSample} {rest : List PortSample} (h : s.inputs = x :: rest) :
    step s = cycle x { s with inputs := rest } := by
  simp only [step, fetch, h]

/-- Without an edge there is no step (log 1). -/
theorem step_of_nil {s : State} (h : s.inputs = []) : step s = .refused .noEdgeSupplied := by
  simp only [step, fetch, h]

@[simp] theorem observe_nil (s : State) : observe [] s = some ([], s) := rfl

theorem observe_cons_next {i : Instr} {rest : List Instr} {s t : State} (h : exec i s = .next t) :
    observe (i :: rest) s = (observe rest t).map fun r => (outputs t :: r.1, r.2) := by
  simp only [observe, h]

theorem observe_cons_refused {i : Instr} {rest : List Instr} {s : State} {r : Refusal} (h : exec i s = .refused r) :
    observe (i :: rest) s = none := by
  simp only [observe, h]

/-- A run of two parts is the run of the second part from where the first ends. -/
theorem observe_append (xs ys : List Instr) (s : State) :
    observe (xs ++ ys) s =
      (observe xs s).bind fun r => (observe ys r.2).map fun q => (r.1 ++ q.1, q.2) := by
  induction xs generalizing s with
  | nil => simp
  | cons i xs ih =>
    cases h : exec i s with
    | next t =>
      rw [List.cons_append, observe_cons_next h, observe_cons_next h, ih]
      cases observe xs t with
      | none => rfl
      | some r => simp [Function.comp_def]
    | fault f => cases f
    | refused r => rw [List.cons_append, observe_cons_refused h, observe_cons_refused h]; rfl

@[simp] theorem eventCount_nil : eventCount [] = 0 := rfl

/-- The events of a run are those of its first cycle and of the rest. -/
theorem eventCount_cons (o : Outputs) (os : List Outputs) :
    eventCount (o :: os) = eventCount os + if freshEvent o then 1 else 0 := by
  simp [eventCount, List.countP_cons]

/-- The environment counts a STEP edge exactly where its word has an event (R74). -/
@[simp] theorem freshEvent_decoderEdge (c : Code) (n : Time) (s : State) :
    freshEvent (outputs (decoderEdge c n s)) = isClick (dirOf (nextByte s.build.mode s.stateQ c)) := rfl

end Sys2Proof.Machine
end

