-- ==== Sys2Proof/Laws/PerInstr.lean ====
section
/-! SUPPORT. Facts about every operation as an encoded command, one lemma per constructor. -/

namespace Sys2Proof.Laws.EncodedInRow

open Sys2Proof

/-- The encoder's vector lies in the opcode map's row of the operation's mnemonic (R46). -/
def Statement (i : Instr) : Prop :=
  ∃ r ∈ opcodeRows, r.mnemonic = i.mnemonic ∧ (encode i).vec &&& r.mask = r.pattern

theorem reset : Statement .reset := ⟨_, .head _, rfl, by decide⟩

theorem nop : Statement .nop := ⟨_, .tail _ (.head _), rfl, by decide⟩

theorem step (code : Code) (now : Time) : Statement (.step code now) :=
  ⟨_, .tail _ (.tail _ (.head _)), rfl, by
    apply BitVec.eq_of_getLsbD_eq
    intro k hk
    interval_cases k <;> simp [encode, codeField]⟩

theorem cfgPeriod (period : Word16) : Statement (.cfgPeriod period) :=
  ⟨_, .tail _ (.tail _ (.tail _ (.head _))), rfl, by
    apply BitVec.eq_of_getLsbD_eq
    intro k hk
    interval_cases k <;> simp [encode, periodField]⟩

theorem stepCfg (code : Code) (now : Time) (period : Word16) : Statement (.stepCfg code now period) :=
  ⟨_, .tail _ (.tail _ (.tail _ (.tail _ (.head _)))), rfl, by
    apply BitVec.eq_of_getLsbD_eq
    intro k hk
    interval_cases k <;> simp [encode, codeField, periodField]⟩

end Sys2Proof.Laws.EncodedInRow
end

