-- ==== Sys2Proof/Tests/Slice0.lean ====
section
/-! SUPPORT. Tests: expected results are the spec's vectors (spec/95_test_vectors.md, the id in each comment) or its
encoding strings (spec/30_encoding.md R46). -/

namespace Sys2Proof.Tests

open Sys2Proof Sys2Proof.Machine

/-! ### Well-formedness: each check refuses an ill-formed term (R48 item 2, R5) -/

theorem test_cfgPeriod_ill_formed_without_speed_unit : Instr.wellFormed false (.cfgPeriod 250#16) = false := by decide
theorem test_stepCfg_ill_formed_without_speed_unit : Instr.wellFormed false (.stepCfg 0b10#2 0#32 250#16) = false := by decide
theorem test_build_ill_formed_period_zero : Build.wellFormed ⟨.fullStep, 0#16⟩ = false := by decide
theorem test_build_ill_formed_period_1001 : Build.wellFormed ⟨.halfStep, 1001#16⟩ = false := by decide
theorem test_build_default_well_formed : Build.wellFormed Build.default = true := by decide

/-! ### Decoding, each word written out from its encoding string, bit 20 first (R46; vectors of L2-8) -/

/-- `1xxxxxxxxxxxxxxxxxxxx`; 0x100000 and 0x1FFFFF of L2-8. -/
theorem test_decode_reset : decode ⟨0b100000000000000000000#21, 5#32⟩ = .reset := by decide
theorem test_decode_reset_ignores : decode ⟨0b111111111111111111111#21, 5#32⟩ = .reset := by decide
/-- `000xxxxxxxxxxxxxxxxxx`; 0x000000 and 0x03FFFF of L2-8. -/
theorem test_decode_nop : decode ⟨0b000000000000000000000#21, 5#32⟩ = .nop := by decide
theorem test_decode_nop_ignores : decode ⟨0b000111111111111111111#21, 5#32⟩ = .nop := by decide
/-- `010ccxxxxxxxxxxxxxxxx` with code 10. -/
theorem test_decode_step : decode ⟨0b010100000000000000000#21, 5#32⟩ = .step 0b10#2 5#32 := by decide
/-- 0x0BFFFF of L2-8. -/
theorem test_decode_step_ignores : decode ⟨0b010111111111111111111#21, 5#32⟩ = .step 0b11#2 5#32 := by decide
/-- `001xxpppppppppppppppp`; 0x0403E8 and 0x070064 of L2-8. -/
theorem test_decode_cfgPeriod : decode ⟨0b001000000001111101000#21, 5#32⟩ = .cfgPeriod 1000#16 := by decide
theorem test_decode_cfgPeriod_ignores : decode ⟨0b001110000000001100100#21, 5#32⟩ = .cfgPeriod 100#16 := by decide
/-- `011ccpppppppppppppppp`; 0x0E0064 of L2-8. -/
theorem test_decode_stepCfg : decode ⟨0b011100000000001100100#21, 5#32⟩ = .stepCfg 0b10#2 5#32 100#16 := by decide
/-- The notation of R51: `STEPCFG 10 @500, 100` is 0x0E0064 with `now_i` = 500. -/
theorem test_encode_stepCfg : encode (.stepCfg 0b10#2 500#32 100#16) = ⟨0x0E0064#21, 500#32⟩ := by decide
/-- No port stands at bit 21 (R44). -/
theorem test_table_word_without_port : decodeTableWord 24 0x200000 = none := by decide
theorem test_table_word_stepCfg : decodeTableWord 24 0x0E0064 = some (.stepCfg 0b10#2 0#32 100#16) := by decide

/-! ### One step each. The helper: a state from its registers, with one edge to come. -/

/-- A full-step or half-step state with a speed unit, and one edge. -/
def stateWith (m : Mode) (state : Byte) (done : Bool) (u : Option SpeedUnit) (x : PortSample) : State :=
  { build := ⟨m, 500#16⟩, stateQ := state, stepDoneQ := done, speedUnit := u, inputs := [x] }

/-- The registers after one step; none where it does not take one. -/
def after (s : State) : Option (Byte × Bool × Option SpeedUnit) :=
  match step s with
  | .next t => some (t.stateQ, t.stepDoneQ, t.speedUnit)
  | .fault _ => none
  | .refused _ => none

/-- RST-1: RESET dominates STEP and CFG_PERIOD at the same edge. -/
theorem test_reset_dominates :
    after (stateWith .fullStep 0x03#8 true (some ⟨250#16, 5#16, 77#32, 9#16⟩) ⟨0x1C0064#21, 900#32⟩)
      = some (0x00#8, false, some ⟨500#16, 0#16, 0#32, 0#16⟩) := by decide
/-- RST-2: an instance without the speed unit. -/
theorem test_reset_without_speed_unit :
    after (stateWith .halfStep 0x13#8 true none ⟨0x100000#21, 0#32⟩) = some (0x00#8, false, none) := by decide
/-- R19: an instance without the speed unit refuses any input that asserts `cfg_i`, RST-1's vector among them. -/
theorem test_reset_with_absent_cfg_port :
    cycle ⟨0x1C0064#21, 900#32⟩ (stateWith .fullStep 0x03#8 true none ⟨0#21, 0#32⟩) = .refused .cfgPeriodWithoutSpeedUnit := by rfl
/-- NOP-1: the window is not tested without a STEP. -/
theorem test_nop_holds :
    after (stateWith .fullStep 0x10#8 true (some ⟨500#16, 3#16, 0#32, 9#16⟩) ⟨0x000000#21, 100000#32⟩)
      = some (0x10#8, false, some ⟨500#16, 3#16, 0#32, 9#16⟩) := by decide
/-- WIN-3: the closing step's click counts, and `elapsed = period` closes. -/
theorem test_step_closes_window :
    after (stateWith .fullStep 0x01#8 false (some ⟨500#16, 2#16, 0#32, 1#16⟩) ⟨0x080000#21, 500#32⟩)
      = some (0x10#8, true, some ⟨500#16, 0#16, 500#32, 6#16⟩) := by decide
/-- WIN-8: one millisecond before the wrapped close. -/
theorem test_step_clock_wrap :
    after (stateWith .fullStep 0x00#8 false (some ⟨500#16, 3#16, 4294967040#32, 1#16⟩) ⟨0x080000#21, 243#32⟩)
      = some (0x00#8, true, some ⟨500#16, 3#16, 4294967040#32, 1#16⟩) := by decide
/-- CFG-4: one past the bound is rejected. -/
theorem test_cfgPeriod_rejects_1001 :
    after (stateWith .fullStep 0x03#8 true (some ⟨250#16, 2#16, 40#32, 7#16⟩) ⟨0x0403E9#21, 0#32⟩)
      = some (0x03#8, false, some ⟨250#16, 2#16, 40#32, 7#16⟩) := by decide
/-- CFG-9: refused by name where SPEED_ENABLE = 0. -/
theorem test_cfgPeriod_without_speed_unit :
    execCfgPeriod 250#16 (stateWith .fullStep 0x00#8 false none ⟨0x0400FA#21, 0#32⟩)
      = .refused .cfgPeriodWithoutSpeedUnit := by rfl
/-- SCFG-1: the window test uses the old period. -/
theorem test_stepCfg_old_period :
    after (stateWith .fullStep 0x00#8 false (some ⟨500#16, 2#16, 40#32, 7#16⟩) ⟨0x0C0064#21, 140#32⟩)
      = some (0x00#8, true, some ⟨100#16, 2#16, 40#32, 7#16⟩) := by decide
/-- SCFG-3: the period is rejected and the STEP takes effect. -/
theorem test_stepCfg_rejects_zero :
    after (stateWith .fullStep 0x01#8 false (some ⟨500#16, 1#16, 0#32, 0#16⟩) ⟨0x0C0000#21, 10#32⟩)
      = some (0x10#8, true, some ⟨500#16, 2#16, 0#32, 0#16⟩) := by decide
/-- The first step after reset, with the opcode table's word for `STEP 10` (0x0A0000), runs it (cell F03). -/
theorem test_first_step_after_reset :
    after (State.reset.withFetchWord 24 0x0A0000) = some (0x02#8, true, some ⟨500#16, 0#16, 0#32, 0#16⟩) := by decide

/-! ### The tables, against the vectors of L2-1 (F01 to F28, H01 to H24), L2-2 and the spec's checks on them -/

/-- The words of a row, codes 00, 01, 10, 11. -/
def rowOf (m : Mode) (state : Byte) : List Byte :=
  [nextByte m state 0b00#2, nextByte m state 0b01#2, nextByte m state 0b10#2, nextByte m state 0b11#2]

theorem test_table_fullStep :
    [0x00#8, 0x01#8, 0x02#8, 0x03#8, 0x04#8, 0x05#8, 0x06#8].map (rowOf .fullStep) =
      [ [0x00#8, 0x04#8, 0x02#8, 0x00#8], [0x10#8, 0x01#8, 0x00#8, 0x03#8], [0x00#8, 0x00#8, 0x02#8, 0x03#8]
      , [0x00#8, 0x01#8, 0x02#8, 0x03#8], [0x00#8, 0x04#8, 0x00#8, 0x06#8], [0x20#8, 0x00#8, 0x05#8, 0x06#8]
      , [0x00#8, 0x04#8, 0x05#8, 0x06#8] ] := by decide
theorem test_table_halfStep :
    [0x00#8, 0x01#8, 0x02#8, 0x03#8, 0x04#8, 0x05#8].map (rowOf .halfStep) =
      [ [0x00#8, 0x01#8, 0x02#8, 0x03#8], [0x00#8, 0x01#8, 0x00#8, 0x23#8], [0x00#8, 0x00#8, 0x02#8, 0x13#8]
      , [0x00#8, 0x04#8, 0x05#8, 0x03#8], [0x10#8, 0x04#8, 0x03#8, 0x03#8], [0x20#8, 0x03#8, 0x05#8, 0x03#8] ] := by decide
/-- STEP-1 and STEP-4: the direction bits of the old state do not select the row. STEP-8 and STEP-9: degenerate rows. -/
theorem test_table_corners :
    [ nextByte .fullStep 0x10#8 0b10#2, nextByte .halfStep 0x13#8 0b01#2
    , nextByte .fullStep 0x0F#8 0b10#2, nextByte .halfStep 0x06#8 0b01#2 ] = [0x02#8, 0x04#8, 0x00#8, 0x00#8] := by decide

/-! ### Witnesses: concrete states and operands that meet the hypotheses of each statement of
Certificates/Slice0/Obligations.lean (the statement's name after `witness_`), at the boundary of each clause's range -/

/-- Full step, speed unit: period 500, two clicks, last boundary at 100, speed 9, at CW_FINAL. -/
def onFull : State := stateWith .fullStep 0x01#8 true (some ⟨500#16, 2#16, 100#32, 9#16⟩) ⟨0x080000#21, 600#32⟩
/-- Half step without the speed unit, at START_MID after a CW event. -/
def onHalf : State := stateWith .halfStep 0x13#8 true none ⟨0x0A0000#21, 0#32⟩
/-- An instance without the speed unit, whose next edge asserts `rst_i` and the absent `cfg_i`. -/
def onAbsent : State := stateWith .fullStep 0x02#8 false none ⟨0x140000#21, 0#32⟩
/-- A window that has just begun. -/
def onFresh : State := stateWith .fullStep 0x00#8 false (some ⟨500#16, 0#16, 100#32, 0#16⟩) ⟨0#21, 0#32⟩
/-- A pre-reset draw of the registers with period 0 (R28). -/
def onZero : State := stateWith .fullStep 0x01#8 false (some ⟨0#16, 2#16, 100#32, 9#16⟩) ⟨0#21, 0#32⟩

theorem witness_DecodeOfEncode : (encode (.cfgPeriod 65535#16)).now = 0#32 ∧ (encode (.step 0b11#2 0#32)).now = 0#32 := by decide
theorem witness_EncodeOfDecodeClearsIgnoredBits :
    (⟨0x1FFFFF#21, 1#32⟩ : PortSample).rst = true ∧
    ((⟨0x03FFFF#21, 1#32⟩ : PortSample).rst, (⟨0x03FFFF#21, 1#32⟩ : PortSample).step, (⟨0x03FFFF#21, 1#32⟩ : PortSample).cfg) = (false, false, false) ∧
    ((⟨0x0BFFFF#21, 1#32⟩ : PortSample).rst, (⟨0x0BFFFF#21, 1#32⟩ : PortSample).step, (⟨0x0BFFFF#21, 1#32⟩ : PortSample).cfg) = (false, true, false) ∧
    ((⟨0x07FFFF#21, 1#32⟩ : PortSample).rst, (⟨0x07FFFF#21, 1#32⟩ : PortSample).step, (⟨0x07FFFF#21, 1#32⟩ : PortSample).cfg) = (false, false, true) ∧
    ((⟨0x0FFFFF#21, 1#32⟩ : PortSample).rst, (⟨0x0FFFFF#21, 1#32⟩ : PortSample).step, (⟨0x0FFFFF#21, 1#32⟩ : PortSample).cfg) = (false, true, true) := by
  decide
/-- One witness for each clause: an edge at ports that exist, one at the absent `cfg_i`, and no edge. -/
theorem witness_StepRunsTheDecodedOperation :
    (onFull.inputs = ⟨0x080000#21, 600#32⟩ :: [] ∧ (⟨0x080000#21, 600#32⟩ : PortSample).cfg = false) ∧
    (onAbsent.inputs = ⟨0x140000#21, 0#32⟩ :: [] ∧ (⟨0x140000#21, 0#32⟩ : PortSample).cfg = true ∧ onAbsent.speedUnit = none) ∧
    State.reset.inputs = [] ∧ ∃ t, exec (.step 0b00#2 600#32) onFull = .next t :=
  ⟨⟨rfl, rfl⟩, ⟨rfl, rfl, rfl⟩, rfl, _, rfl⟩
theorem witness_StepsRunTheEncodedStream : ∃ os z, observe [.step 0b00#2 600#32, .cfgPeriod 250#16] onFull = some (os, z) :=
  ⟨_, _, rfl⟩
theorem witness_DetentPseudoOperationsGiveTheirEvents : nodeOf onFresh.stateQ = 0x0#4 := by decide
theorem witness_TableWordRunsAsTheNextEdge :
    0x1FFFFF < 2 ^ 21 ∧ 2 ^ 21 ≤ 0x200000 ∧ 0xFFFFFF < 2 ^ 24 ∧
    (decodeTableWord 24 0x0A0000 = some (.step 0b10#2 0#32) ∧ (0x0A0000 % 2 ^ 24).testBit 18 = false) ∧
    (decodeTableWord 24 0x040000 = some (.cfgPeriod 0#16) ∧ (0x040000 % 2 ^ 24).testBit 18 = true) ∧
    onFull.speedUnit.isSome = true ∧ onHalf.speedUnit = none := by decide
theorem witness_StepReadsOneRomWord :
    onFull.speedUnit.isSome = true ∧ (∃ t, exec .reset onFull = .next t) ∧ (∃ t, exec .nop onFull = .next t) ∧
    (∃ t, exec (.cfgPeriod 250#16) onFull = .next t) ∧ (∃ t, exec (.stepCfg 0b00#2 600#32 250#16) onFull = .next t) :=
  ⟨rfl, ⟨_, rfl⟩, ⟨_, rfl⟩, ⟨_, rfl⟩, ⟨_, rfl⟩⟩
theorem witness_DirectionBitsDoNotSelectTheRow : (0xF1#8 : Byte).extractLsb' 0 4 = onFull.stateQ.extractLsb' 0 4 := by decide
theorem witness_StepWithoutSpeedUnitResult : onHalf.speedUnit = none := rfl
/-- Both branches of the window test: at the period, and one millisecond before it. -/
theorem witness_StepWithSpeedUnitResult :
    onFull.speedUnit = some ⟨500#16, 2#16, 100#32, 9#16⟩ ∧ (500#16 : Word16) ≠ 0#16 ∧
    onFull.romByte (onFull.stateQ.extractLsb' 0 4 ++ 0b00#2) = 0x10#8 ∧
    500 ≤ (600 + 2 ^ 32 - 100) % 2 ^ 32 ∧ ¬ 500 ≤ (599 + 2 ^ 32 - 100) % 2 ^ 32 := by decide
theorem witness_StepAtPeriodZeroCompletes :
    onZero.speedUnit = some ⟨0#16, 2#16, 100#32, 9#16⟩ ∧ onZero.romByte (onZero.stateQ.extractLsb' 0 4 ++ 0b00#2) = 0x10#8 := by decide
theorem witness_EventOnlyOnCompletingCells :
    (∃ t, exec (.step 0b00#2 600#32) onFull = .next t) ∧ nodeOf onFull.stateQ = fullNodeValue .cwFinal := ⟨⟨_, rfl⟩, by decide⟩
theorem witness_RepeatedSampleHoldsTheNode :
    onFull.build.mode = .fullStep ∧ nodeOf onFull.stateQ = fullNodeValue .cwFinal ∧
    onHalf.build.mode = .halfStep ∧ nodeOf onHalf.stateQ = halfNodeValue .startMid := by decide
theorem witness_IllegalJumpGivesNoEvent :
    onFresh.build.mode = .fullStep ∧ nodeOf onFresh.stateQ = fullNodeValue .start ∧
    onHalf.build.mode = .halfStep ∧ nodeOf onHalf.stateQ = halfNodeValue .startMid := by decide
/-- The first and the last degenerate node of each mode. -/
theorem witness_DegenerateNodeStepsToStart :
    nodes .fullStep ≤ (nodeOf 0x07#8).toNat ∧ nodes .fullStep ≤ (nodeOf 0x0F#8).toNat ∧
    nodes .halfStep ≤ (nodeOf 0x06#8).toNat ∧ nodes .halfStep ≤ (nodeOf 0x0F#8).toNat := by decide
theorem witness_CleanDetentEvents :
    nodeOf onFresh.stateQ = 0x0#4 ∧
    [(0b00#2, 1#32), (0b10#2, 2#32), (0b11#2, 3#32), (0b01#2, 4#32), (0b00#2, 5#32)].map Prod.fst
      = [0b00#2, 0b10#2, 0b11#2, 0b01#2, 0b00#2] := by decide
theorem witness_BounceGivesAtMostOneEvent :
    ((0b10#2 ^^^ 0b11#2 : Code) = 0b01#2) ∧ ((0b00#2 ^^^ 0b10#2 : Code) = 0b10#2) ∧
    ∀ i ∈ [Instr.step 0b10#2 1#32, .nop, .step 0b11#2 2#32],
      i = .nop ∨ ∃ c t, (c = 0b10#2 ∨ c = 0b11#2) ∧ i = .step c t := by
  refine ⟨by decide, by decide, fun i hi => ?_⟩
  simp only [List.mem_cons, List.not_mem_nil, or_false] at hi
  rcases hi with rfl | rfl | rfl
  · exact .inr ⟨_, _, .inl rfl, rfl⟩
  · exact .inl rfl
  · exact .inr ⟨_, _, .inr rfl, rfl⟩
theorem witness_NopOnlyClearsStepDone :
    (0x03FFFF#21 &&& 0x1C0000#21 : CmdVec) = 0x000000#21 ∧ (∃ t, exec .nop onFull = .next t) ∧
    ∃ s : State, s.stateQ = 0x10#8 ∧ s.stepDoneQ = true :=
  ⟨by decide, ⟨_, rfl⟩, { onFull with stateQ := 0x10#8 }, rfl, rfl⟩
theorem witness_CfgPeriodResult : onFull.speedUnit = some ⟨500#16, 2#16, 100#32, 9#16⟩ ∧ onZero.speedUnit ≠ none := by decide
theorem witness_StepCfgResult :
    onFull.speedUnit = some ⟨500#16, 2#16, 100#32, 9#16⟩ ∧ (500#16 : Word16) ≠ 0#16 ∧
    onFull.romByte (onFull.stateQ.extractLsb' 0 4 ++ 0b01#2) = 0x01#8 ∧
    (1 ≤ (1000#16 : Word16).toNat ∧ (1000#16 : Word16).toNat ≤ 1000) ∧ ¬ (1001#16 : Word16).toNat ≤ 1000 := by decide
theorem witness_StepCfgIsStepThenPeriodWrite : onZero.speedUnit.isSome = true := rfl
theorem witness_CfgOperationsNeedTheSpeedUnit : onHalf.speedUnit = none := rfl
theorem witness_OnlyTheMissingPortIsRefused :
    exec (.cfgPeriod 250#16) onHalf = .refused .cfgPeriodWithoutSpeedUnit ∧
    cycle ⟨0x140000#21, 0#32⟩ onHalf = .refused .cfgPeriodWithoutSpeedUnit ∧ (⟨0x140000#21, 0#32⟩ : PortSample).cfg = true :=
  ⟨rfl, rfl, rfl⟩
/-- An edge with the absent port, one that completes, and two that agree in the ports that exist. -/
theorem witness_WithoutSpeedUnitItsPortsDoNotExist :
    onHalf.speedUnit = none ∧ (⟨0x140000#21, 0#32⟩ : PortSample).cfg = true ∧
    (∃ t, cycle ⟨0x0A0000#21, 0#32⟩ onHalf = .next t) ∧
    (0x0A0000#21 : CmdVec).extractLsb' 16 5 = (0x0AFFFF#21 : CmdVec).extractLsb' 16 5 := ⟨rfl, rfl, ⟨_, rfl⟩, by decide⟩
/-- The elapsed time equals the period. -/
theorem witness_WindowCloseRestartsTheWindow :
    onFull.speedUnit = some ⟨500#16, 2#16, 100#32, 9#16⟩ ∧ (500#16 : Word16).toNat ≤ (600#32 - 100#32 : Time).toNat := by decide
/-- The elapsed time is one less than the period. -/
theorem witness_OpenWindowKeepsSpeedAndBoundary :
    onFull.speedUnit = some ⟨500#16, 2#16, 100#32, 9#16⟩ ∧ (599#32 - 100#32 : Time).toNat < (500#16 : Word16).toNat := by decide
/-- A time just before `last_q`, and both sides of the bound `last_q - now <= 2^32 - period_q`. -/
theorem witness_TimeMattersOnlyAtStepEdges :
    (0x100000#21 : CmdVec).getLsbD 20 = true ∧ (0x07FFFF#21 : CmdVec).getLsbD 19 = false ∧
    onFull.speedUnit = some ⟨500#16, 2#16, 100#32, 9#16⟩ ∧ LegalPeriod 500#16 ∧ (99#32 : Time).toNat < (100#32 : Time).toNat ∧
    (0xFFFFFE0C#32 : Time).toNat - (0#32 : Time).toNat ≤ 2 ^ 32 - (500#16 : Word16).toNat ∧
    ¬ (0xFFFFFE0D#32 : Time).toNat - (0#32 : Time).toNat ≤ 2 ^ 32 - (500#16 : Word16).toNat := by decide
/-- A clock that wraps between the boundary and now: the close, and one millisecond before it. -/
theorem witness_ClockWrapIsBenign :
    onFull.speedUnit = some ⟨500#16, 2#16, BitVec.ofNat 32 100, 9#16⟩ ∧ 100 ≤ 600 ∧
    500 ≤ ((2 ^ 32 + 244) - 4294967040) % 2 ^ 32 ∧ ((2 ^ 32 + 243) - 4294967040) % 2 ^ 32 < 500 := by decide
theorem witness_SpeedIsTheEventsOfTheWindow :
    onFresh.speedUnit = some ⟨500#16, 0#16, 100#32, 0#16⟩ ∧ LegalPeriod 500#16 ∧
    (500#16 : Word16).toNat ≤ (600#32 - 100#32 : Time).toNat ∧
    ∀ i ∈ [Instr.step 0b10#2 599#32, .nop],
      i = .nop ∨ ∃ c' t', i = .step c' t' ∧ (t' - 100#32 : Time).toNat < (500#16 : Word16).toNat := by
  refine ⟨rfl, by decide, by decide, fun i hi => ?_⟩
  simp only [List.mem_cons, List.not_mem_nil, or_false] at hi
  rcases hi with rfl | rfl
  · exact .inr ⟨_, _, rfl, by decide⟩
  · exact .inl rfl
theorem witness_IdleCyclesNeverUpdateTheSpeed :
    onFull.speedUnit = some ⟨500#16, 2#16, 100#32, 9#16⟩ ∧
    ∀ i ∈ [Instr.nop, .cfgPeriod 1#16], i = .nop ∨ ∃ p, i = .cfgPeriod p := by
  refine ⟨rfl, fun i hi => ?_⟩
  simp only [List.mem_cons, List.not_mem_nil, or_false] at hi
  rcases hi with rfl | rfl
  · exact .inl rfl
  · exact .inr ⟨_, rfl⟩
/-- One witness for each clause: an accepted period at its bound, and a rejected one past it. -/
theorem witness_PeriodRegisterHoldsOnlyLegalValues :
    (∃ t u', exec (.cfgPeriod 1000#16) onFull = .next t ∧ t.speedUnit = some u' ∧ u'.periodQ ≠ 500#16) ∧
    (∃ t u', exec (.stepCfg 0b00#2 5#32 1001#16) onFull = .next t ∧ t.speedUnit = some u') ∧
    LegalPeriod 1000#16 ∧ ¬ LegalPeriod 1001#16 ∧ ¬ LegalPeriod 0#16 ∧ LegalPeriod onFull.build.defaultPeriod :=
  ⟨⟨_, _, rfl, rfl, by decide⟩, ⟨_, _, rfl, rfl⟩, by decide, by decide, by decide, by decide⟩
theorem witness_BoundaryTimeWrittenOnlyAtClose :
    (∃ t u', exec (.step 0b00#2 600#32) onFull = .next t ∧ t.speedUnit = some u' ∧ u'.lastQ ≠ 100#32) ∧
    (500#16 : Word16).toNat ≤ (600#32 - 100#32 : Time).toNat :=
  ⟨⟨_, _, rfl, rfl, by decide⟩, by decide⟩
theorem witness_SpeedRegisterWrittenOnlyAtClose :
    (∃ t u', exec (.step 0b00#2 600#32) onFull = .next t ∧ t.speedUnit = some u' ∧ u'.speedQ ≠ 9#16) ∧
    (500#16 : Word16) ≠ 0#16 ∧ (500#16 : Word16).toNat ≤ (600#32 - 100#32 : Time).toNat :=
  ⟨⟨_, _, rfl, rfl, by decide⟩, by decide, by decide⟩
theorem witness_StateByteWrittenOnlyByStepAndReset : ∃ t, exec (.step 0b00#2 600#32) onFull = .next t ∧ t.stateQ ≠ onFull.stateQ :=
  ⟨_, rfl, by decide⟩
theorem witness_StepDonePulsesAfterStep :
    (∃ t, cycle ⟨0x080000#21, 600#32⟩ onFull = .next t) ∧ ∃ t, cycle ⟨0x1BFFFF#21, 0#32⟩ onHalf = .next t := ⟨⟨_, rfl⟩, ⟨_, rfl⟩⟩
theorem witness_OperationsKeepEverythingElse :
    (∃ t u', exec (.cfgPeriod 250#16) onFull = .next t ∧ t.speedUnit = some u') ∧
    ∃ t u', exec (.step 0b00#2 600#32) onFull = .next t ∧ t.speedUnit = some u' := ⟨⟨_, _, rfl, rfl⟩, ⟨_, _, rfl, rfl⟩⟩
theorem witness_ResetResult : onHalf.speedUnit = none ∧ onZero.speedUnit = some ⟨0#16, 2#16, 100#32, 9#16⟩ := ⟨rfl, rfl⟩
theorem witness_ResetDominatesEveryStrobe :
    (0x1FFFFF#21 &&& 0x100000#21 : CmdVec) = 0x100000#21 ∧ (0x1FFFFF#21 : CmdVec).getLsbD 18 = true ∧
    (0x1BFFFF#21 &&& 0x100000#21 : CmdVec) = 0x100000#21 ∧ (0x1BFFFF#21 : CmdVec).getLsbD 18 = false ∧
    onFull.speedUnit.isSome = true ∧ onHalf.speedUnit = none := by decide
theorem witness_ResetStateIsLegal : Build.wellFormed ⟨.halfStep, 1#16⟩ = true ∧ Build.wellFormed ⟨.fullStep, 1000#16⟩ = true := by decide
theorem witness_StepKeepsRegistersLegal : onFull.Legal ∧ onHalf.Legal ∧ ∃ t, step onFull = .next t :=
  ⟨by decide, by decide, _, rfl⟩
theorem witness_EventsIndependentOfTheSpeedUnit :
    [Instr.step 0b10#2 5#32, .cfgPeriod 7#16, .stepCfg 0b11#2 6#32 9#16].map decoderView
      = [Instr.step 0b10#2 9#32, .nop, .step 0b11#2 0#32].map decoderView ∧
    (∃ r, observe [.step 0b10#2 5#32, .cfgPeriod 7#16, .stepCfg 0b11#2 6#32 9#16] onFull = some r) ∧
    (∃ r, observe [.step 0b10#2 9#32, .nop, .step 0b11#2 0#32] { onFull with speedUnit := none } = some r) :=
  ⟨by decide, ⟨_, rfl⟩, ⟨_, rfl⟩⟩
theorem witness_OutputsShowTheRegisters : onFull.speedUnit = some ⟨500#16, 2#16, 100#32, 9#16⟩ ∧ onHalf.speedUnit = none := ⟨rfl, rfl⟩
theorem witness_FirstWindowRunsFromTimeZero : onZero.speedUnit.isSome = true ∧ LegalPeriod onZero.build.defaultPeriod := by decide

end Sys2Proof.Tests
end

section
/-! Proofs of the family 10_state: who writes `period_q`, `last_q` and `state_q` (spec/10_state.md R10, R15, R17). -/

namespace Sys2Proof.Machine

/-! ### What an operation does to the speed unit -/

/-- The inversion of `exec` read at the speed unit: all that an operation which completes can have done to it. -/
theorem exec_speedUnit_cases {i : Instr} {s t : State} {u v : SpeedUnit} (h : exec i s = .next t)
    (hu : s.speedUnit = some u) (hv : t.speedUnit = some v) :
    (i = .reset ∧ v = SpeedUnit.reset s.build) ∨
    (i = .nop ∧ v = u) ∨
    (∃ c n, i = .step c n ∧ v = speedWindow (dirOf (nextByte s.build.mode s.stateQ c)) n u) ∨
    (∃ p, i = .cfgPeriod p ∧ v = { u with periodQ := configuredPeriod p u.periodQ }) ∨
    (∃ c n p, i = .stepCfg c n p ∧
      v = { speedWindow (dirOf (nextByte s.build.mode s.stateQ c)) n u with
        periodQ := configuredPeriod p u.periodQ }) := by
  rcases exec_next_cases h with ⟨rfl, rfl⟩ | ⟨rfl, rfl⟩ | ⟨c, n, rfl, rfl⟩ | ⟨p, w, rfl, hw, rfl⟩ | ⟨c, n, p, w, rfl, hw, rfl⟩
  · exact .inl ⟨rfl, by simpa [hu] using hv.symm⟩
  · exact .inr (.inl ⟨rfl, by simpa [hu] using hv.symm⟩)
  · exact .inr (.inr (.inl ⟨c, n, rfl, by simpa [hu] using hv.symm⟩))
  · obtain rfl : u = w := Option.some.inj (hu.symm.trans hw)
    exact .inr (.inr (.inr (.inl ⟨p, rfl, (Option.some.inj hv).symm⟩)))
  · obtain rfl : u = w := Option.some.inj (hu.symm.trans hw)
    exact .inr (.inr (.inr (.inr ⟨c, n, p, rfl, (Option.some.inj hv).symm⟩)))

/-- A legal operand is written to the period register (R86). -/
theorem configuredPeriod_of_legal {p : Word16} (h : LegalPeriod p) (old : Word16) : configuredPeriod p old = p :=
  if_pos ((periodInRange_iff p).2 h)

/-- An illegal operand leaves the period register (R86). -/
theorem configuredPeriod_of_not_legal {p : Word16} (h : ¬ LegalPeriod p) (old : Word16) :
    configuredPeriod p old = old :=
  if_neg (mt (periodInRange_iff p).1 h)

/-- Only a legal operand changes the period register (R15). -/
theorem legal_of_configuredPeriod_ne {p old : Word16} (h : configuredPeriod p old ≠ old) : LegalPeriod p :=
  by_contra fun hp => h (configuredPeriod_of_not_legal hp old)

/-- The window writes `last_q` exactly where it closes, with the time of the step (R17, R84, R85). -/
theorem speedWindow_lastQ (d : Dir) (now : Time) (u : SpeedUnit) :
    (speedWindow d now u).lastQ = if u.periodQ.toNat ≤ (now - u.lastQ).toNat then now else u.lastQ := by
  split
  case isTrue h => rw [speedWindow_of_closes h]
  case isFalse h => rw [speedWindow_of_open (Nat.lt_of_not_le h)]

/-- A window that changed `last_q` has closed (R17). -/
theorem closes_of_speedWindow_lastQ_ne {d : Dir} {now : Time} {u : SpeedUnit}
    (h : (speedWindow d now u).lastQ ≠ u.lastQ) : u.periodQ.toNat ≤ (now - u.lastQ).toNat :=
  by_contra fun ho => h ((speedWindow_lastQ d now u).trans (if_neg ho))

/-! ### The statements -/

/-- Settles O37, by cases on the operation: RESET writes the default, CFG_PERIOD and STEP_CFG write `configuredPeriod`, and
the window keeps `period_q`. -/
theorem periodRegisterHoldsOnlyLegalValues : Obligations.PeriodRegisterHoldsOnlyLegalValues := by
  intro i s s' u u' h hu hu'
  rcases exec_speedUnit_cases h hu hu' with
    ⟨rfl, rfl⟩ | ⟨rfl, rfl⟩ | ⟨c, n, rfl, rfl⟩ | ⟨p, rfl, rfl⟩ | ⟨c, n, p, rfl, rfl⟩
  · -- RESET
    exact ⟨fun _ hd => hd, fun _ => .inl rfl, by simp, fun _ => rfl⟩
  · -- NOP
    exact ⟨fun hl _ => hl, fun hne => absurd rfl hne, by simp, nofun⟩
  · -- STEP
    rw [speedWindow_periodQ]
    exact ⟨fun hl _ => hl, fun hne => absurd rfl hne, by simp, nofun⟩
  all_goals -- CFG_PERIOD and STEP_CFG, which write the register alike
    refine ⟨fun hl _ => configuredPeriod_legal hl, fun hne => ?_, ?_, nofun⟩
    · exact .inr ⟨p, by simp, legal_of_configuredPeriod_ne hne,
        configuredPeriod_of_legal (legal_of_configuredPeriod_ne hne) _⟩
    · intro q hq
      obtain rfl : p = q := by simpa using hq
      exact ⟨fun hp => configuredPeriod_of_legal hp _, fun hp => configuredPeriod_of_not_legal hp _⟩

/-- Settles O38, by cases on the operation: beside RESET only the speed window writes `last_q`, and only where it
closes. -/
theorem boundaryTimeWrittenOnlyAtClose : Obligations.BoundaryTimeWrittenOnlyAtClose := by
  intro i s s' u u' h hu hu'
  rcases exec_speedUnit_cases h hu hu' with
    ⟨rfl, rfl⟩ | ⟨rfl, rfl⟩ | ⟨c, n, rfl, rfl⟩ | ⟨p, rfl, rfl⟩ | ⟨c, n, p, rfl, rfl⟩
  case inl => -- RESET
    simp
  case inr.inl => -- NOP
    simp
  case inr.inr.inr.inl => -- CFG_PERIOD
    simp
  all_goals -- STEP and STEP_CFG, which sample alike
    refine ⟨fun hne => .inr ⟨c, n, by simp, closes_of_speedWindow_lastQ_ne hne⟩, fun c' t hi hc => ?_⟩
    obtain ⟨rfl, rfl⟩ : c = c' ∧ n = t := by simpa using hi
    exact (speedWindow_lastQ _ _ _).trans (if_pos hc)

/-- Settles O40, by cases on the operation: STEP and STEP_CFG load the table word, RESET the reset byte, and the other two
leave the register. -/
theorem stateByteWrittenOnlyByStepAndReset : Obligations.StateByteWrittenOnlyByStepAndReset := by
  intro i s s' h
  rcases exec_next_cases h with
    ⟨rfl, rfl⟩ | ⟨rfl, rfl⟩ | ⟨c, n, rfl, rfl⟩ | ⟨p, u, rfl, -, rfl⟩ | ⟨c, n, p, u, rfl, -, rfl⟩
  case inl => -- RESET
    exact ⟨by simp, fun _ _ => rfl, fun _ => .inl rfl⟩
  case inr.inl => -- NOP
    simp
  case inr.inr.inr.inl => -- CFG_PERIOD
    simp
  all_goals -- STEP and STEP_CFG, which sample alike
    refine ⟨fun c' t hi => ?_, nofun, fun _ => .inr ⟨c, n, by simp⟩⟩
    obtain ⟨rfl, rfl⟩ : c = c' ∧ n = t := by simpa using hi
    rfl

end Sys2Proof.Machine
end

section
/-! Proof of the family 30_encoding: the rows of the opcode map against the decoder (spec/30_encoding.md R46). -/

namespace Sys2Proof

/-! ### What a row's match says of the strobes -/

/-- A vector is of the RESET row exactly where `rst_i` is 1 (R46, R47). -/
theorem and_resetMask_eq_iff (x : PortSample) : x.vec &&& 0x100000#21 = 0x100000#21 ↔ x.rst = true := by
  rw [and_resetMask, PortSample.rst]
  cases x.vec.getLsbD 20 <;> decide

/-- The three strobes of a strobe word can be read back from it. -/
theorem strobeWord_inj {r s g r' s' g' : Bool} :
    strobeWord r s g = strobeWord r' s' g' ↔ r = r' ∧ s = s' ∧ g = g' := by
  revert r s g r' s' g'
  decide

/-- A vector is of the row of `{step_i, cfg_i}` = `{s, g}` exactly where `rst_i` is 0 and these are its strobes (R46). -/
theorem and_strobeMask_eq_iff (x : PortSample) (s g : Bool) :
    x.vec &&& 0x1C0000#21 = strobeWord false s g ↔ x.rst = false ∧ x.step = s ∧ x.cfg = g := by
  rw [and_strobeMask, strobeWord_inj]
  rfl

theorem matches_nop_iff (x : PortSample) :
    x.vec &&& 0x1C0000#21 = 0x000000#21 ↔ x.rst = false ∧ x.step = false ∧ x.cfg = false :=
  and_strobeMask_eq_iff x false false

theorem matches_step_iff (x : PortSample) :
    x.vec &&& 0x1C0000#21 = 0x080000#21 ↔ x.rst = false ∧ x.step = true ∧ x.cfg = false :=
  and_strobeMask_eq_iff x true false

theorem matches_cfgPeriod_iff (x : PortSample) :
    x.vec &&& 0x1C0000#21 = 0x040000#21 ↔ x.rst = false ∧ x.step = false ∧ x.cfg = true :=
  and_strobeMask_eq_iff x false true

theorem matches_stepCfg_iff (x : PortSample) :
    x.vec &&& 0x1C0000#21 = 0x0C0000#21 ↔ x.rst = false ∧ x.step = true ∧ x.cfg = true :=
  and_strobeMask_eq_iff x true true

/-! ### The decoder against the rows -/

/-- All that the decoder can read: `rst_i` alone, or one of the four values of `{step_i, cfg_i}` (R46, R47). -/
theorem decode_cases (x : PortSample) :
    (x.rst = true ∧ decode x = .reset) ∨
    (x.rst = false ∧ x.step = false ∧ x.cfg = false ∧ decode x = .nop) ∨
    (x.rst = false ∧ x.step = true ∧ x.cfg = false ∧ decode x = .step x.code x.now) ∨
    (x.rst = false ∧ x.step = false ∧ x.cfg = true ∧ decode x = .cfgPeriod x.period) ∨
    (x.rst = false ∧ x.step = true ∧ x.cfg = true ∧ decode x = .stepCfg x.code x.now x.period) := by
  cases hr : x.rst
  case true => exact .inl ⟨rfl, decode_of_rst hr⟩
  case false =>
    cases hs : x.step <;> cases hc : x.cfg
    · simp [decode_of_idle hr hs hc]
    · simp [decode_of_cfg hr hs hc]
    · simp [decode_of_step hr hs hc]
    · simp [decode_of_step_cfg hr hs hc]

/-- A row of the opcode map matches exactly the vectors that decode to the row's operation (R46). -/
theorem matches_row_iff (x : PortSample) {r : OpcodeRow} (hr : r ∈ opcodeRows) :
    x.vec &&& r.mask = r.pattern ↔ (decode x).mnemonic = r.mnemonic := by
  simp only [opcodeRows, List.mem_cons, List.not_mem_nil, or_false] at hr
  rcases hr with rfl | rfl | rfl | rfl | rfl
  all_goals -- each row's match is a condition on the strobes, and they fix what the decoder reads
    simp only [and_resetMask_eq_iff, matches_nop_iff, matches_step_iff, matches_cfgPeriod_iff, matches_stepCfg_iff]
    rcases decode_cases x with h | h | h | h | h <;> simp [h, Instr.mnemonic]

/-- No two rows of the opcode map are of one operation. -/
theorem opcodeRow_eq_of_mnemonic_eq :
    ∀ r ∈ opcodeRows, ∀ r' ∈ opcodeRows, r.mnemonic = r'.mnemonic → r = r' := by
  decide

/-- Every operation has a row in the opcode map. -/
theorem exists_opcodeRow (i : Instr) : ∃ r ∈ opcodeRows, i.mnemonic = r.mnemonic := by
  cases i <;> simp [opcodeRows, Instr.mnemonic]

/-- The decoder as R46 words it: RESET first, then `vec & 0x1C0000` against the other four. -/
theorem decode_eq_by_masks (x : PortSample) :
    decode x =
      if x.vec &&& 0x100000#21 = 0x100000#21 then .reset
      else if x.vec &&& 0x1C0000#21 = 0x000000#21 then .nop
      else if x.vec &&& 0x1C0000#21 = 0x080000#21 then .step x.code x.now
      else if x.vec &&& 0x1C0000#21 = 0x040000#21 then .cfgPeriod x.period
      else .stepCfg x.code x.now x.period := by
  simp only [and_resetMask_eq_iff, matches_nop_iff, matches_step_iff, matches_cfgPeriod_iff]
  rcases decode_cases x with h | h | h | h | h <;> simp [h]

/-! ### The statement -/

/-- Settles O3: a row matches exactly where the decoded operation is the row's, and each operation has one row. -/
theorem opcodeMapCoversEveryVectorOnce : Obligations.OpcodeMapCoversEveryVectorOnce := by
  refine ⟨rfl, fun v now => ?_, fun v now => decode_eq_by_masks ⟨v, now⟩⟩
  obtain ⟨r, hr, hi⟩ := exists_opcodeRow (decode ⟨v, now⟩)
  refine ⟨r, hr, (matches_row_iff ⟨v, now⟩ hr).2 hi, hi, fun r' hr' hm => ?_⟩
  have hi' := (matches_row_iff ⟨v, now⟩ hr').1 hm
  exact opcodeRow_eq_of_mnemonic_eq r' hr' r hr (hi'.symm.trans hi)

end Sys2Proof
end

section
/-! Proof of the family 40_transition_table: the node field alone selects the table row
(spec/40_transition_table.md R54). -/

namespace Sys2Proof.Machine

/-! ### What a step reads of the state byte -/

/-- State bytes of one node read the same table word (R54). -/
theorem nextByte_of_nodeOf_eq {b b' : Byte} (h : nodeOf b = nodeOf b') (m : Mode) (c : Code) :
    nextByte m b c = nextByte m b' c := by
  rw [nextByte_eq, nextByte_eq, h]

/-- An edge that performs STEP leaves the same state from state bytes of one node (R54). -/
theorem decoderEdge_of_nodeOf_eq {s : State} {b : Byte} (h : nodeOf b = nodeOf s.stateQ) (c : Code) (n : Time) :
    decoderEdge c n { s with stateQ := b } = decoderEdge c n s := by
  simp only [decoderEdge, nextByte_of_nodeOf_eq h]

/-- STEP answers alike from state bytes of one node (R54). -/
theorem exec_step_of_nodeOf_eq {s : State} {b : Byte} (h : nodeOf b = nodeOf s.stateQ) (c : Code) (n : Time) :
    exec (.step c n) { s with stateQ := b } = exec (.step c n) s := by
  rw [exec_step, exec_step, decoderEdge_of_nodeOf_eq h]

/-- STEP_CFG answers alike from state bytes of one node, the refusal without the speed unit included (R54). -/
theorem exec_stepCfg_of_nodeOf_eq {s : State} {b : Byte} (h : nodeOf b = nodeOf s.stateQ) (c : Code) (n : Time)
    (p : Word16) : exec (.stepCfg c n p) { s with stateQ := b } = exec (.stepCfg c n p) s := by
  obtain hu | ⟨u, hu⟩ := s.speedUnit.eq_none_or_eq_some
  · rw [exec_stepCfg_none hu, exec_stepCfg_none (s := { s with stateQ := b }) hu]
  · rw [exec_stepCfg_some hu, exec_stepCfg_some (s := { s with stateQ := b }) hu, decoderEdge_of_nodeOf_eq h,
      nextByte_of_nodeOf_eq h]

/-! ### The statement -/

/-- Settles O11: the state byte enters STEP and STEP_CFG only as the table word that its node selects, and 0x10 has the
node of 0x00. -/
theorem directionBitsDoNotSelectTheRow : Obligations.DirectionBitsDoNotSelectTheRow := by
  refine ⟨fun s b c t h => exec_step_of_nodeOf_eq h c t, fun s b c t p h => exec_stepCfg_of_nodeOf_eq h c t p,
    fun s c t => ?_⟩
  have hnode : nodeOf 0x10#8 = nodeOf 0x00#8 := by decide
  exact exec_step_of_nodeOf_eq (s := { s with stateQ := 0x00#8 }) hnode c t

end Sys2Proof.Machine
end

section
/-! Proofs of the family 41_decoder_step: what STEP reads of the table and that nothing else reads or writes it, and what
NOP changes (spec/41_decoder_step.md R75, R78). -/

namespace Sys2Proof.Machine

/-! ### What operations read and write of the memory -/

/-- The word a STEP loads is the instance's ROM byte at `{state_q[3:0], code}` (R78). -/
theorem nextByte_eq_romByte (s : State) (c : Code) :
    nextByte s.build.mode s.stateQ c = s.romByte (s.stateQ.extractLsb' 0 4 ++ c) := rfl

/-- No operation writes the build. -/
theorem exec_build {i : Instr} {s t : State} (h : exec i s = .next t) : t.build = s.build := by
  rcases exec_next_cases h with
    ⟨-, rfl⟩ | ⟨-, rfl⟩ | ⟨c, n, -, rfl⟩ | ⟨p, u, -, -, rfl⟩ | ⟨c, n, p, u, -, -, rfl⟩
  all_goals rfl

/-- No operation writes the memory: the ROM is the table of the build's mode (R29, R78). -/
theorem exec_romByte {i : Instr} {s t : State} (h : exec i s = .next t) (a : RomAddr) : t.romByte a = s.romByte a := by
  rw [State.romByte, State.romByte, exec_build h]

/-- An operation that takes no sample reads no table: with the other mode's table it does the same (R78). -/
theorem exec_with_mode {i : Instr} {s t : State} (hi : i = .reset ∨ i = .nop ∨ ∃ p, i = .cfgPeriod p)
    (h : exec i s = .next t) (m : Mode) :
    exec i { s with build := { s.build with mode := m } } = .next { t with build := { t.build with mode := m } } := by
  rcases hi with rfl | rfl | ⟨p, rfl⟩
  · rw [exec_reset] at h
    cases h
    rfl
  · rw [exec_nop] at h
    cases h
    rfl
  · obtain hu | ⟨u, hu⟩ := s.speedUnit.eq_none_or_eq_some
    · rw [exec_cfgPeriod_none hu] at h
      cases h
    · rw [exec_cfgPeriod_some hu] at h
      cases h
      exact exec_cfgPeriod_some (s := { s with build := { s.build with mode := m } }) hu

/-! ### The idle edge -/

/-- A vector without a strobe performs NOP on every instance, whatever its other ports carry (R46, R75). -/
theorem cycle_eq_nop {x : PortSample} (h : x.vec &&& 0x1C0000#21 = 0x000000#21) (s : State) :
    cycle x s = exec .nop s := by
  obtain ⟨hr, hs, hc⟩ := (matches_nop_iff x).1 h
  rw [cycle_of_ports (portsExist_of_cfg hc s), decode_of_idle hr hs hc]

/-! ### The statements -/

/-- Settles O10: STEP and STEP_CFG load the word at `{state_q[3:0], code}`, the other operations answer alike under either
table, and no operation writes the build that selects the table. -/
theorem stepReadsOneRomWord : Obligations.StepReadsOneRomWord := by
  refine ⟨fun c t s => ⟨_, exec_step c t s, nextByte_eq_romByte s c⟩, fun c t p s hs => ?_,
    fun i s s' m hi h => exec_with_mode hi h m, fun i s s' h a => exec_romByte h a⟩
  obtain ⟨u, hu⟩ := Option.isSome_iff_exists.1 hs
  exact ⟨_, exec_stepCfg_some hu, nextByte_eq_romByte s c⟩

/-- Settles O25: an edge without a strobe is NOP, whose answer differs from the pre-edge state in `step_done_q` alone. -/
theorem nopOnlyClearsStepDone : Obligations.NopOnlyClearsStepDone := by
  refine ⟨exec_nop, fun x s hx => ?_, fun s s' h a => exec_romByte h a, fun s hb _ => ⟨_, exec_nop s, hb, rfl⟩⟩
  rw [cycle_eq_nop hx, exec_nop]

end Sys2Proof.Machine
end

section
/-! Proofs of the family 42_speed: what a closing and an open window leave, and where `now_i` matters
(spec/42_speed.md R84, R85, R92). -/

namespace Sys2Proof.Machine

/-! ### What a sampling operation does to the speed unit -/

/-- STEP and STEP_CFG complete where the speed unit exists and run the speed window on the event of their own word; they
differ in the period register alone (R80, R87). -/
theorem exec_sample_some {c : Code} {t : Time} {p : Word16} {s : State} {u : SpeedUnit} {i : Instr}
    (hu : s.speedUnit = some u) (hi : i = .step c t ∨ i = .stepCfg c t p) :
    ∃ s' q, exec i s = .next s' ∧
      s'.speedUnit = some { speedWindow (outputs s').dirO t u with periodQ := q } := by
  rcases hi with rfl | rfl
  · -- STEP, whose window keeps the period
    refine ⟨_, u.periodQ, exec_step c t s, ?_⟩
    rw [decoderEdge_speedUnit, hu, ← speedWindow_periodQ (outputs (decoderEdge c t s)).dirO t u]
    rfl
  · -- STEP_CFG, which writes the period register as well
    exact ⟨_, configuredPeriod p u.periodQ, exec_stepCfg_some hu, rfl⟩

/-! ### A time before the boundary (R92) -/

/-- A time before the boundary has wrapped once (R82, R92). -/
theorem elapsed_toNat_of_lt {now last : Time} (h : now.toNat < last.toNat) :
    (elapsed now last).toNat = 2 ^ 32 - (last.toNat - now.toNat) := by
  rw [elapsed_toNat]
  omega

/-- A window of a legal period that sees a time before its boundary closes exactly where the time is back by no more than
the bound of R92. -/
theorem closes_iff_of_lt {period : Word16} {now last : Time} (hp : LegalPeriod period) (h : now.toNat < last.toNat) :
    period.toNat ≤ (now - last).toNat ↔ last.toNat - now.toNat ≤ 2 ^ 32 - period.toNat := by
  have he : (now - last).toNat = 2 ^ 32 - (last.toNat - now.toNat) := elapsed_toNat_of_lt h
  have hlast : last.toNat < 2 ^ 32 := last.isLt
  obtain ⟨-, hle⟩ := hp
  omega

/-- At a time other than the boundary, `last_q` shows whether the window closed (R84, R85). -/
theorem speedWindow_lastQ_eq_now_iff {d : Dir} {now : Time} {u : SpeedUnit} (hne : u.lastQ ≠ now) :
    (speedWindow d now u).lastQ = now ↔ u.periodQ.toNat ≤ (now - u.lastQ).toNat := by
  rw [speedWindow_lastQ, ite_eq_left_iff]
  exact ⟨fun h => by_contra fun ho => hne (h ho), fun hc ho => absurd hc ho⟩

/-! ### An edge that samples no time (R92) -/

/-- The decoder reads `now_i` only where it reads a STEP (R44, R92). -/
theorem decode_now_irrelevant {v : CmdVec} (h : v.getLsbD 20 = true ∨ v.getLsbD 19 = false) (n1 n2 : Time) :
    decode ⟨v, n1⟩ = decode ⟨v, n2⟩ := by
  rcases decode_cases ⟨v, n1⟩ with
    ⟨hr, hd⟩ | ⟨hr, hs, hc, hd⟩ | ⟨hr, hs, -, -⟩ | ⟨hr, hs, hc, hd⟩ | ⟨hr, hs, -, -⟩
  case inl => -- RESET
    exact hd.trans (decode_of_rst (x := ⟨v, n2⟩) hr).symm
  case inr.inl => -- NOP
    exact hd.trans (decode_of_idle (x := ⟨v, n2⟩) hr hs hc).symm
  case inr.inr.inr.inl => -- CFG_PERIOD
    exact hd.trans (decode_of_cfg (x := ⟨v, n2⟩) hr hs hc).symm
  all_goals -- STEP and STEP_CFG, which such a vector does not present
    rcases h with hr' | hs'
    · exact absurd (hr'.symm.trans hr) (by decide)
    · exact absurd (hs'.symm.trans hs) (by decide)

/-- Edges with one vector differ at most by what the decoder reads of `now_i`. -/
theorem cycle_eq_of_decode_eq {v : CmdVec} {n1 n2 : Time} (h : decode ⟨v, n1⟩ = decode ⟨v, n2⟩) (s : State) :
    cycle ⟨v, n1⟩ s = cycle ⟨v, n2⟩ s := by
  have hports : portsExist ⟨v, n1⟩ s = portsExist ⟨v, n2⟩ s := rfl
  rw [cycle, cycle, hports, h]

/-! ### The statements -/

/-- Settles O31: both operations run the speed window, which closes there. -/
theorem windowCloseRestartsTheWindow : Obligations.WindowCloseRestartsTheWindow := by
  intro c t p s u i hu hc hi
  obtain ⟨s', q, hs', hu'⟩ := exec_sample_some hu hi
  rw [speedWindow_of_closes hc] at hu'
  exact ⟨s', _, hs', hu', rfl, rfl⟩

/-- Settles O32: both operations run the speed window, which stays open there. -/
theorem openWindowKeepsSpeedAndBoundary : Obligations.OpenWindowKeepsSpeedAndBoundary := by
  intro c t p s u i hu ho hi
  obtain ⟨s', q, hs', hu'⟩ := exec_sample_some hu hi
  rw [speedWindow_of_open ho] at hu'
  exact ⟨s', _, hs', hu', rfl, rfl, rfl⟩

/-- Settles O33: without a STEP the decoder reads no time, and a time before the boundary closes the window exactly where
the wrapped difference reaches the period. -/
theorem timeMattersOnlyAtStepEdges : Obligations.TimeMattersOnlyAtStepEdges := by
  refine ⟨fun v n1 n2 s hv => cycle_eq_of_decode_eq (decode_now_irrelevant hv n1 n2) s, ?_⟩
  intro c t p s u i hu hp hlt hi
  obtain ⟨s', q, hs', hu'⟩ := exec_sample_some hu hi
  have hne : u.lastQ ≠ t := fun h => absurd (congrArg BitVec.toNat h) (Nat.ne_of_gt hlt)
  exact ⟨elapsed_toNat_of_lt hlt, s', _, hs', hu',
    (speedWindow_lastQ_eq_now_iff hne).trans (closes_iff_of_lt hp hlt)⟩

end Sys2Proof.Machine
end

section
/-! Proofs of the family other, the encoding: the encoder and the decoder against each other (spec/30_encoding.md R44 to
R46). -/

namespace Sys2Proof

/-! ### The ports of an encoded operation (R44) -/

@[simp] theorem codeField_zero : codeField 0#2 = 0#21 := rfl
@[simp] theorem periodField_zero : periodField 0#16 = 0#21 := rfl

/-- The five ports of a vector built from fixed strobes, a code and a period. -/
theorem ports_of_fields (f : CmdVec) (c : Code) (p : Word16) (n : Time) (hf : f &&& 0x03FFFF#21 = 0#21)
    {x : PortSample} (hx : x = ⟨f ||| codeField c ||| periodField p, n⟩) :
    x.rst = f.getLsbD 20 ∧ x.step = f.getLsbD 19 ∧ x.cfg = f.getLsbD 18 ∧ x.code = c ∧ x.period = p ∧ x.now = n := by
  subst hx
  exact ⟨strobe_of_fields f c p 20 (by simp), strobe_of_fields f c p 19 (by simp), strobe_of_fields f c p 18 (by simp),
    codeField_extract f c p hf, periodField_extract f c p hf, rfl⟩

/-- The decoder undoes the encoder. -/
theorem decode_encode (i : Instr) : decode (encode i) = i := by
  cases i with
  | reset => rfl
  | nop => rfl
  | step c n =>
    have hx : encode (.step c n) = ⟨0x080000#21 ||| codeField c ||| periodField 0#16, n⟩ := by simp [encode]
    obtain ⟨hr, hs, hg, hc, -, hn⟩ := ports_of_fields 0x080000#21 c 0#16 n (by decide) hx
    rw [decode_of_step hr hs hg, hc, hn]
  | cfgPeriod p =>
    have hx : encode (.cfgPeriod p) = ⟨0x040000#21 ||| codeField 0#2 ||| periodField p, 0#32⟩ := by simp [encode]
    obtain ⟨hr, hs, hg, -, hp, -⟩ := ports_of_fields 0x040000#21 0#2 p 0#32 (by decide) hx
    rw [decode_of_cfg hr hs hg, hp]
  | stepCfg c n p =>
    obtain ⟨hr, hs, hg, hc, hp, hn⟩ :=
      ports_of_fields 0x0C0000#21 c p n (by decide) (x := encode (.stepCfg c n p)) rfl
    rw [decode_of_step_cfg hr hs hg, hc, hp, hn]

/-! ### The opcode table's number (log 20) -/

/-- A number without a bit at 21 or above is a command vector. -/
theorem ofWord_of_lt {nbits w : Nat} (h : w % 2 ^ nbits < 2 ^ 21) :
    PortSample.ofWord nbits w = .ok ⟨BitVec.ofNat 21 (w % 2 ^ nbits), 0#32⟩ := if_pos h

/-- A number with a bit at 21 or above is rejected. -/
theorem ofWord_of_le {nbits w : Nat} (h : 2 ^ 21 ≤ w % 2 ^ nbits) :
    PortSample.ofWord nbits w = .error .bitWithoutPort := if_neg (Nat.not_lt.2 h)

theorem decodeTableWord_of_lt {nbits w : Nat} (h : w % 2 ^ nbits < 2 ^ 21) :
    decodeTableWord nbits w = some (decode ⟨BitVec.ofNat 21 (w % 2 ^ nbits), 0#32⟩) := by
  simp only [decodeTableWord, ofWord_of_lt h]

theorem decodeTableWord_of_le {nbits w : Nat} (h : 2 ^ 21 ≤ w % 2 ^ nbits) : decodeTableWord nbits w = none := by
  simp only [decodeTableWord, ofWord_of_le h]

/-- Only a command vector decodes. -/
theorem lt_of_decodeTableWord {nbits w : Nat} {i : Instr} (h : decodeTableWord nbits w = some i) :
    w % 2 ^ nbits < 2 ^ 21 := by
  by_contra hw
  rw [decodeTableWord_of_le (Nat.le_of_not_lt hw)] at h
  cases h

/-- A number below 2^21 is its own vector. -/
theorem decodeTableWord_24_of_lt {w : Nat} (h : w < 2 ^ 21) :
    decodeTableWord 24 w = some (decode ⟨BitVec.ofNat 21 w, 0#32⟩) := by
  have hw : w % 2 ^ 24 = w := Nat.mod_eq_of_lt (by omega)
  have hd := decodeTableWord_of_lt (nbits := 24) (w := w) (by rwa [hw])
  rwa [hw] at hd

/-! ### The fields the decoder reads, as masks of the vector (R45, R46) -/

/-- A vector's own code, encoded again, is its bits 17:16. -/
theorem codeField_code (x : PortSample) : codeField x.code = x.vec &&& 0x030000#21 := by
  apply BitVec.eq_of_getLsbD_eq
  intro k hk
  interval_cases k <;> simp [codeField, PortSample.code, -BitVec.getLsbD_eq_getElem]

/-- A vector's own period, encoded again, is its bits 15:0. -/
theorem periodField_period (x : PortSample) : periodField x.period = x.vec &&& 0x00FFFF#21 := by
  apply BitVec.eq_of_getLsbD_eq
  intro k hk
  interval_cases k <;> simp [periodField, PortSample.period, -BitVec.getLsbD_eq_getElem]

/-! ### The statements -/

/-- Settles O1: the decoder undoes the encoder, and a vector with `now_i` = 0 is its number. -/
theorem decodeOfEncode : Obligations.DecodeOfEncode := by
  intro i
  refine ⟨decode_encode i, fun hnow => ?_⟩
  have hx : (⟨BitVec.ofNat 21 (encode i).vec.toNat, 0#32⟩ : PortSample) = encode i := by
    rw [BitVec.ofNat_toNat, BitVec.setWidth_eq, ← hnow]
  rw [decodeTableWord_24_of_lt (encode i).vec.isLt, hx, decode_encode]

/-- Settles O2: in each row the strobes are the row's pattern, and each field the operation samples is its own mask of the
vector. -/
theorem encodeOfDecodeClearsIgnoredBits : Obligations.EncodeOfDecodeClearsIgnoredBits := by
  intro x
  refine ⟨fun hr => ?_, fun hr hs hg => ?_, fun hr hs hg => ?_, fun hr hs hg => ?_, fun hr hs hg => ?_⟩
  · rw [decode_of_rst hr, (and_resetMask_eq_iff x).2 hr]
    rfl
  · rw [decode_of_idle hr hs hg, (matches_nop_iff x).2 ⟨hr, hs, hg⟩]
    rfl
  · rw [decode_of_step hr hs hg, encode, codeField_code, ← (matches_step_iff x).2 ⟨hr, hs, hg⟩,
      ← BitVec.and_or_distrib_left]
    rfl
  · rw [decode_of_cfg hr hs hg, encode, periodField_period, ← (matches_cfgPeriod_iff x).2 ⟨hr, hs, hg⟩,
      ← BitVec.and_or_distrib_left]
    rfl
  · rw [decode_of_step_cfg hr hs hg, encode, codeField_code, periodField_period,
      ← (matches_stepCfg_iff x).2 ⟨hr, hs, hg⟩, ← BitVec.and_or_distrib_left, ← BitVec.and_or_distrib_left]
    rfl

/-- Settles O4: the decoder run on the nine vectors. -/
theorem sampleWordsDecodeAsListed : Obligations.SampleWordsDecodeAsListed := by
  unfold Obligations.SampleWordsDecodeAsListed
  decide

end Sys2Proof
end

section
/-! Proofs of the family other, the edge: where an operation and an edge complete, what every operation keeps, and the
stream of edges (spec/10_state.md, spec/60_exceptions.md section 1, spec/30_encoding.md sections 2 to 4). -/

namespace Sys2Proof.Machine

/-! ### Where an operation completes -/

/-- An operation completes where it is well formed for the instance, and is refused by the one name elsewhere (R48, D17). -/
theorem exec_outcome (i : Instr) (s : State) :
    (i.wellFormed s.speedEnable = true ∧ ∃ t, exec i s = .next t) ∨
    (i.wellFormed s.speedEnable = false ∧ exec i s = .refused .cfgPeriodWithoutSpeedUnit) := by
  cases i with
  | reset => exact .inl ⟨rfl, _, exec_reset s⟩
  | nop => exact .inl ⟨rfl, _, exec_nop s⟩
  | step c n => exact .inl ⟨rfl, _, exec_step c n s⟩
  | cfgPeriod p =>
    obtain hu | ⟨u, hu⟩ := s.speedUnit.eq_none_or_eq_some
    · exact .inr ⟨by simp [Instr.wellFormed, State.speedEnable, hu], exec_cfgPeriod_none hu⟩
    · exact .inl ⟨by simp [Instr.wellFormed, State.speedEnable, hu], _, exec_cfgPeriod_some hu⟩
  | stepCfg c n p =>
    obtain hu | ⟨u, hu⟩ := s.speedUnit.eq_none_or_eq_some
    · exact .inr ⟨by simp [Instr.wellFormed, State.speedEnable, hu], exec_stepCfg_none hu⟩
    · exact .inl ⟨by simp [Instr.wellFormed, State.speedEnable, hu], _, exec_stepCfg_some hu⟩

/-- An operation completes exactly where it is well formed for the instance. -/
theorem exec_completes_iff (i : Instr) (s : State) :
    (∃ t, exec i s = .next t) ↔ i.wellFormed s.speedEnable = true := by
  obtain ⟨hw, ht⟩ | ⟨hw, hr⟩ := exec_outcome i s
  · exact iff_of_true ht hw
  · exact iff_of_false (by simp [hr]) (by simp [hw])

/-- What the decoder reads at ports that the instance has is well formed for it. -/
theorem decode_wellFormed {x : PortSample} {s : State} (h : portsExist x s = true) :
    (decode x).wellFormed s.speedEnable = true := by
  have hports := (portsExist_iff x s).1 h
  rcases decode_cases x with ⟨-, hd⟩ | ⟨-, -, -, hd⟩ | ⟨-, -, -, hd⟩ | ⟨-, -, hg, hd⟩ | ⟨-, -, hg, hd⟩ <;> rw [hd]
  case inl | inr.inl | inr.inr.inl => -- RESET, NOP and STEP
    rfl
  all_goals -- CFG_PERIOD and STEP_CFG, which assert `cfg_i`
    exact hports.resolve_left (by simp [hg])

/-- An edge performs its operation where its ports exist, and is refused by the one name where it asserts the absent
`cfg_i` (R19, D17). -/
theorem cycle_outcome (x : PortSample) (s : State) :
    (portsExist x s = true ∧ ∃ t, cycle x s = .next t) ∨
    (portsExist x s = false ∧ cycle x s = .refused .cfgPeriodWithoutSpeedUnit) := by
  cases hp : portsExist x s with
  | true => exact .inl ⟨rfl, by rw [cycle_of_ports hp]; exact (exec_completes_iff _ _).2 (decode_wellFormed hp)⟩
  | false => exact .inr ⟨rfl, if_neg (by simp [hp])⟩

/-- The only edge whose ports do not exist asserts `cfg_i` without the speed unit (R19). -/
theorem portsExist_iff_not (x : PortSample) (s : State) :
    portsExist x s = true ↔ ¬(s.speedUnit = none ∧ x.cfg = true) := by
  rw [portsExist_iff]
  cases s.speedUnit <;> simp

/-! ### What every operation keeps -/

/-- No operation writes the stream. -/
theorem exec_inputs {i : Instr} {s t : State} (h : exec i s = .next t) : t.inputs = s.inputs := by
  rcases exec_next_cases h with
    ⟨-, rfl⟩ | ⟨-, rfl⟩ | ⟨c, n, -, rfl⟩ | ⟨p, u, -, -, rfl⟩ | ⟨c, n, p, u, -, -, rfl⟩
  all_goals rfl

/-- No operation makes or unmakes the speed unit (R19). -/
theorem exec_speedEnable {i : Instr} {s t : State} (h : exec i s = .next t) : t.speedEnable = s.speedEnable := by
  rcases exec_next_cases h with
    ⟨-, rfl⟩ | ⟨-, rfl⟩ | ⟨c, n, -, rfl⟩ | ⟨p, u, -, hu, rfl⟩ | ⟨c, n, p, u, -, hu, rfl⟩
  all_goals simp [State.speedEnable, *]

/-- All that a CFG_PERIOD which completes can have done. -/
theorem exec_cfgPeriod_next {p : Word16} {s t : State} (h : exec (.cfgPeriod p) s = .next t) :
    ∃ u, s.speedUnit = some u ∧
      t = { s with stepDoneQ := false, speedUnit := some { u with periodQ := configuredPeriod p u.periodQ } } := by
  obtain hu | ⟨u, hu⟩ := s.speedUnit.eq_none_or_eq_some
  · rw [exec_cfgPeriod_none hu] at h
    cases h
  · rw [exec_cfgPeriod_some hu] at h
    cases h
    exact ⟨u, hu, rfl⟩

/-- Every operation that completes keeps the registers legal. -/
theorem exec_legal {i : Instr} {s t : State} (hs : s.Legal) (h : exec i s = .next t) : t.Legal := by
  obtain ⟨hbyte, hdefault, hperiod⟩ := hs
  rcases exec_next_cases h with
    ⟨-, rfl⟩ | ⟨-, rfl⟩ | ⟨c, n, -, rfl⟩ | ⟨p, u, -, hu, rfl⟩ | ⟨c, n, p, u, -, hu, rfl⟩
  · -- RESET
    refine ⟨resetByte_legal _, hdefault, fun v hv => ?_⟩
    obtain ⟨-, -, rfl⟩ := Option.map_eq_some_iff.1 hv
    exact hdefault
  · -- NOP
    exact ⟨hbyte, hdefault, hperiod⟩
  · -- STEP, whose window keeps the period
    refine ⟨nextByte_legal _ _ _, hdefault, fun v hv => ?_⟩
    obtain ⟨u, hu, rfl⟩ := Option.map_eq_some_iff.1 hv
    rw [speedWindow_periodQ]
    exact hperiod u hu
  · -- CFG_PERIOD
    refine ⟨hbyte, hdefault, fun v hv => ?_⟩
    obtain rfl := Option.some.inj hv
    exact configuredPeriod_legal (hperiod u hu)
  · -- STEP_CFG
    refine ⟨nextByte_legal _ _ _, hdefault, fun v hv => ?_⟩
    obtain rfl := Option.some.inj hv
    exact configuredPeriod_legal (hperiod u hu)

/-- An edge that performs STEP without the speed unit leaves all but the state byte and `step_done_q`. -/
theorem decoderEdge_of_none {s : State} (h : s.speedUnit = none) (c : Code) (n : Time) :
    decoderEdge c n s = { s with stateQ := nextByte s.build.mode s.stateQ c, stepDoneQ := true } := by
  simp only [decoderEdge, h, Option.map_none, stepDoneNext_running]

/-! ### The next edge -/

/-- All that a step which completes can have done: the operation of the next edge, on the state that no longer lists it. -/
theorem step_next {s t : State} (h : step s = .next t) :
    ∃ x rest, s.inputs = x :: rest ∧ exec (decode x) { s with inputs := rest } = .next t := by
  cases hin : s.inputs with
  | nil => rw [step_of_nil hin] at h; cases h
  | cons x rest =>
    rw [step_of_cons hin] at h
    exact ⟨x, rest, rfl, (cycle_next h).2⟩

/-- A step at an encoded operation, where that operation completes, takes it from the stream and performs it. -/
theorem step_encode {i : Instr} {s t : State} (h : exec i s = .next t) (rest : List PortSample) :
    step { s with inputs := encode i :: rest } = .next { t with inputs := rest } := by
  rw [step_of_cons (s := { s with inputs := encode i :: rest }) rfl,
    cycle_of_ports ((portsExist_withInputs _ s rest).trans (portsExist_encode h)), decode_encode]
  exact exec_with_inputs h rest

/-- A run begins with its first step. -/
theorem run_succ_of_step {s t : State} (h : step s = .next t) (k : Nat) :
    Sys2Proof.core.run (k + 1) s = Sys2Proof.core.run k t := by
  have hs : Sys2Proof.core.step s = .next t := h
  simp only [Host.Core.run, hs]

/-- A placed command vector is the next edge, with `now_i` = 0. -/
theorem step_withFetchWord {nbits w : Nat} (hw : w % 2 ^ nbits < 2 ^ 21) (s : State) :
    step (s.withFetchWord nbits w) =
      cycle ⟨BitVec.ofNat 21 (w % 2 ^ nbits), 0#32⟩ { s with inputs := s.inputs.tail } := by
  have hin : (s.withFetchWord nbits w).inputs = ⟨BitVec.ofNat 21 (w % 2 ^ nbits), 0#32⟩ :: s.inputs.tail := by
    simp only [State.withFetchWord, streamWithWord, ofWord_of_lt hw]
  rw [step_of_cons hin]
  rfl

/-- `cfg_i` of a number's vector is its bit 18 (R44). -/
theorem cfg_ofNat (k : Nat) (n : Time) : (⟨BitVec.ofNat 21 k, n⟩ : PortSample).cfg = k.testBit 18 := by
  simp [PortSample.cfg, -BitVec.getLsbD_eq_getElem, BitVec.getLsbD_ofNat]

/-- The ports that exist without the speed unit are bits 20, 19, 17 and 16, and `cfg_i` is bit 18 (R44). -/
theorem ports_of_extract_eq {x y : PortSample} (h : x.vec.extractLsb' 16 5 = y.vec.extractLsb' 16 5) :
    x.rst = y.rst ∧ x.step = y.step ∧ x.cfg = y.cfg ∧ x.code = y.code := by
  have hbit (k : Nat) (hk : k < 5) : x.vec.getLsbD (16 + k) = y.vec.getLsbD (16 + k) := by
    simpa [hk] using congrArg (fun v => v.getLsbD k) h
  refine ⟨hbit 4 (by decide), hbit 3 (by decide), hbit 2 (by decide), BitVec.eq_of_getLsbD_eq fun k hk => ?_⟩
  simpa [PortSample.code, hk] using hbit k (by omega)

/-! ### The statements -/

/-- Settles O47: a step that completes is an operation on the state without that edge, and every operation keeps the
registers legal. -/
theorem stepKeepsRegistersLegal : Obligations.StepKeepsRegistersLegal := by
  intro s s' hs h
  obtain ⟨x, rest, -, he⟩ := step_next h
  exact exec_legal (s := { s with inputs := rest }) hs he

/-- Settles O5: the step fetches the next edge, whose operation runs where its ports exist. -/
theorem stepRunsTheDecodedOperation : Obligations.StepRunsTheDecodedOperation := by
  refine ⟨fun s x rest hin hp => ?_, fun s x rest hin hg hu => ?_, fun i s t h => exec_inputs h,
    fun s hin => step_of_nil hin⟩
  · exact (step_of_cons hin).trans (cycle_of_ports ((portsExist_iff x _).2 hp))
  · exact (step_of_cons hin).trans (cycle_missing_port hg hu)

/-- Settles O6: a number below 2^21 is a command vector and becomes the next edge, and any other 24-bit number has a bit
without a port. -/
theorem tableWordRunsAsTheNextEdge : Obligations.TableWordRunsAsTheNextEdge := by
  refine ⟨fun w hw => decodeTableWord_24_of_lt hw, fun w hle hlt => ?_, fun s nbits w i h => ?_⟩
  · exact decodeTableWord_of_le (by rwa [Nat.mod_eq_of_lt hlt])
  · have hw := lt_of_decodeTableWord h
    obtain rfl := Option.some.inj ((decodeTableWord_of_lt hw).symm.trans h)
    rw [step_withFetchWord hw, ← cfg_ofNat (w % 2 ^ nbits) 0#32]
    exact ⟨fun hp => cycle_of_ports ((portsExist_iff _ _).2 hp), fun hg hu => cycle_missing_port hg hu⟩

/-- Settles O7, by induction on the operations: each step performs the first of them and leaves the rest of the stream. -/
theorem stepsRunTheEncodedStream : Obligations.StepsRunTheEncodedStream := by
  intro ops
  induction ops with
  | nil =>
    intro s z os h
    obtain ⟨rfl, rfl⟩ : [] = os ∧ s = z := by simpa using h
    rfl
  | cons i ops ih =>
    intro s z os h
    obtain ⟨-, t, ht⟩ | ⟨-, hr⟩ := exec_outcome i s
    · rw [observe_cons_next ht] at h
      obtain ⟨r, hr, hz⟩ := Option.map_eq_some_iff.1 h
      obtain rfl : r.2 = z := congrArg Prod.snd hz
      exact (run_succ_of_step (step_encode ht _) _).trans (ih t r.2 r.1 hr)
    · rw [observe_cons_refused hr] at h
      cases h

/-- Settles O30: what an operation and an edge answer, each in its two cases. -/
theorem onlyTheMissingPortIsRefused : Obligations.OnlyTheMissingPortIsRefused := by
  refine ⟨fun x s => ?_, fun x s r h => ?_, fun _ _ => nofun, exec_completes_iff, fun i s r h => ?_, fun _ _ => nofun⟩
  · rw [← portsExist_iff_not]
    exact ⟨fun ⟨t, ht⟩ => (cycle_next ht).1, fun hp => by simpa [hp] using cycle_outcome x s⟩
  · obtain ⟨-, t, ht⟩ | ⟨-, hr⟩ := cycle_outcome x s
    · rw [ht] at h; cases h
    · rw [hr] at h; cases h; rfl
  · obtain ⟨-, t, ht⟩ | ⟨-, hr⟩ := exec_outcome i s
    · rw [ht] at h; cases h
    · rw [hr] at h; cases h; rfl

/-- Settles O42: the frames that hold of every operation, and three that are read off the operation's own effect. -/
theorem operationsKeepEverythingElse : Obligations.OperationsKeepEverythingElse := by
  intro i s s' h
  refine ⟨exec_build h, exec_inputs h, exec_romByte h, exec_speedEnable h, ?_, ?_, ?_⟩
  · rintro rfl
    rw [exec_nop] at h
    cases h
    exact ⟨rfl, rfl⟩
  · rintro p rfl
    obtain ⟨w, hw, rfl⟩ := exec_cfgPeriod_next h
    refine ⟨rfl, fun u u' hu hu' => ?_⟩
    obtain rfl : w = u := Option.some.inj (hw.symm.trans hu)
    obtain rfl := Option.some.inj hu'
    exact ⟨rfl, rfl, rfl⟩
  · rintro c t rfl u u' hu hu'
    rw [exec_step] at h
    cases h
    rw [decoderEdge_speedUnit, hu] at hu'
    obtain rfl := Option.some.inj hu'
    exact speedWindow_periodQ _ _ u

/-- Settles O44: such a vector asserts `rst_i`, so it decodes to RESET, which completes on every state. -/
theorem resetDominatesEveryStrobe : Obligations.ResetDominatesEveryStrobe := by
  intro v now s hv
  have hr : (⟨v, now⟩ : PortSample).rst = true := (and_resetMask_eq_iff ⟨v, now⟩).1 hv
  refine ⟨fun hp => ?_, fun hg hu => cycle_missing_port (x := ⟨v, now⟩) hg hu⟩
  have hports : portsExist ⟨v, now⟩ s = true := (portsExist_iff ⟨v, now⟩ s).2 hp
  have hc : cycle ⟨v, now⟩ s = exec .reset s := by rw [cycle_of_ports hports, decode_of_rst hr]
  exact ⟨hc, _, hc.trans (exec_reset s)⟩

/-- Settles O52: without the speed unit the edge is refused or performs one of the three operations that read neither
`period_i` nor, there, `now_i`. -/
theorem withoutSpeedUnitItsPortsDoNotExist : Obligations.WithoutSpeedUnitItsPortsDoNotExist := by
  intro s hu
  refine ⟨fun x hg => cycle_missing_port hg hu, by simp [hu], by simp [hu], fun x s' h => ?_, fun x y h => ?_⟩
  · have he := exec_speedEnable (cycle_next h).2
    simpa [State.speedEnable, hu] using he
  · obtain ⟨hr, hs, hg, hc⟩ := ports_of_extract_eq h
    cases hxg : x.cfg with
    | true => rw [cycle_missing_port hxg hu, cycle_missing_port (hg ▸ hxg) hu]
    | false =>
      have hyg : y.cfg = false := hg ▸ hxg
      rw [cycle_of_ports (portsExist_of_cfg hxg s), cycle_of_ports (portsExist_of_cfg hyg s)]
      rcases decode_cases x with
        ⟨hxr, hd⟩ | ⟨hxr, hxs, -, hd⟩ | ⟨hxr, hxs, -, hd⟩ | ⟨-, -, hxg', -⟩ | ⟨-, -, hxg', -⟩
      · -- RESET
        rw [hd, decode_of_rst (hr ▸ hxr)]
      · -- NOP
        rw [hd, decode_of_idle (hr ▸ hxr) (hs ▸ hxs) hyg]
      · -- STEP, whose two times differ
        rw [hd, decode_of_step (hr ▸ hxr) (hs ▸ hxs) hyg, hc, exec_step, exec_step, decoderEdge_of_none hu,
          decoderEdge_of_none hu]
      all_goals -- CFG_PERIOD and STEP_CFG, which assert `cfg_i`
        exact absurd (hxg.symm.trans hxg') (by decide)

end Sys2Proof.Machine
end

section
/-! Proofs of the family other, the table: what its words are, cell by cell, and what one STEP shows for it
(spec/40_transition_table.md). -/

namespace Sys2Proof.Machine

/-! ### Facts of the table's words, each checked over the 64 cells of each mode -/

/-- Code 00 leads to node START from every node. -/
theorem tableWord_zero_node (m : Mode) (n : Nibble) : nodeOf (tableWord m n 0b00#2) = 0x0#4 := by
  cases m <;> (revert n; decide)

/-- The CW words are the completing cells of R70. -/
theorem tableWord_cw_iff (m : Mode) (n : Nibble) (c : Code) :
    dirOf (tableWord m n c) = 0b01#2 ↔
      (m = .fullStep ∧ n = fullNodeValue .cwFinal ∧ c = 0b00#2) ∨
      (m = .halfStep ∧ n = halfNodeValue .cwBegin ∧ c = 0b11#2) ∨
      (m = .halfStep ∧ n = halfNodeValue .cwBeginMid ∧ c = 0b00#2) := by
  cases m <;> (revert n c; decide)

/-- The CCW words are the mirrored cells. -/
theorem tableWord_ccw_iff (m : Mode) (n : Nibble) (c : Code) :
    dirOf (tableWord m n c) = 0b10#2 ↔
      (m = .fullStep ∧ n = fullNodeValue .ccwFinal ∧ c = 0b00#2) ∨
      (m = .halfStep ∧ n = halfNodeValue .ccwBegin ∧ c = 0b11#2) ∨
      (m = .halfStep ∧ n = halfNodeValue .ccwBeginMid ∧ c = 0b00#2) := by
  cases m <;> (revert n c; decide)

/-- The rows beyond the graph's nodes hold 0x00 (R68). -/
theorem tableWord_degenerate (m : Mode) (n : Nibble) (c : Code) (h : nodes m ≤ n.toNat) : tableWord m n c = 0x00#8 := by
  cases m <;> (revert n c; decide)

/-- A full-step node holds under its own code, without an event (R73, corner case 2). -/
theorem tableWord_fullPosition (n : FullNode) :
    tableWord .fullStep (fullNodeValue n) (fullPosition n) = packByte .none (fullNodeValue n) := by
  cases n <;> decide

/-- A half-step node holds under its own code, without an event (R73, corner case 2). -/
theorem tableWord_halfPosition (n : HalfNode) :
    tableWord .halfStep (halfNodeValue n) (halfPosition n) = packByte .none (halfNodeValue n) := by
  cases n <;> decide

/-- A full-step node shows no event under the opposite code (R73, corner case 3). -/
theorem tableWord_fullPosition_compl (n : FullNode) :
    dirOf (tableWord .fullStep (fullNodeValue n) (~~~(fullPosition n))) = 0b00#2 := by
  cases n <;> decide

/-- A half-step node shows no event under the opposite code (R73, corner case 3). -/
theorem tableWord_halfPosition_compl (n : HalfNode) :
    dirOf (tableWord .halfStep (halfNodeValue n) (~~~(halfPosition n))) = 0b00#2 := by
  cases n <;> decide

/-- From node START no code completes a detent. -/
theorem tableWord_start_dir (m : Mode) (c : Code) : dirOf (tableWord m 0x0#4 c) = 0b00#2 := by
  cases m <;> (revert c; decide)

@[simp] theorem nodeOf_packByte (e : DirEvent) (n : Nibble) : nodeOf (packByte e n) = n := by
  cases e <;> (revert n; decide)

@[simp] theorem dirOf_packByte (e : DirEvent) (n : Nibble) : dirOf (packByte e n) = dirCode e := by
  cases e <;> (revert n; decide)

/-! ### The statements -/

/-- Settles O8: the table read at its 64 addresses. -/
theorem romHoldsTheHexTables : Obligations.RomHoldsTheHexTables := by
  unfold Obligations.RomHoldsTheHexTables
  decide

/-- Settles O9, node by node and code by code. -/
theorem romEncodesTheNamedGraph : Obligations.RomEncodesTheNamedGraph := by
  refine ⟨fun n c => ?_, fun n c => ?_⟩ <;> rw [romRead_append]
  · cases n <;> (revert c; decide)
  · cases n <;> (revert c; decide)

/-- Settles O15: STEP loads the word of code 00, whose node is START. -/
theorem codeZeroReturnsToStart : Obligations.CodeZeroReturnsToStart := by
  intro t s
  refine ⟨_, exec_step _ t s, ?_⟩
  rw [decoderEdge_stateQ, nextByte_eq, tableWord_zero_node]

/-- Settles O16: `dir_o` after STEP is the direction field of the word, a legal byte. -/
theorem eventOnlyOnCompletingCells : Obligations.EventOnlyOnCompletingCells := by
  intro c t s s' h
  rw [exec_step] at h
  cases h
  rw [outputs_dirO, decoderEdge_stateQ, nextByte_eq]
  obtain ⟨-, -, hdir, -⟩ := tableWord_legal s.build.mode (nodeOf s.stateQ) c
  exact ⟨tableWord_cw_iff _ _ _, tableWord_ccw_iff _ _ _, hdir⟩

/-- Settles O17: STEP loads the node's own hold word. -/
theorem repeatedSampleHoldsTheNode : Obligations.RepeatedSampleHoldsTheNode := by
  refine ⟨fun n t s hm hn => ⟨_, exec_step _ t s, ?_⟩, fun n t s hm hn => ⟨_, exec_step _ t s, ?_⟩⟩ <;>
    rw [outputs_dirO, decoderEdge_stateQ, nextByte_eq, hm, hn]
  · rw [tableWord_fullPosition, nodeOf_packByte, dirOf_packByte]
    exact ⟨rfl, rfl⟩
  · rw [tableWord_halfPosition, nodeOf_packByte, dirOf_packByte]
    exact ⟨rfl, rfl⟩

/-- Settles O18: STEP loads the word of the opposite code, which has no event. -/
theorem illegalJumpGivesNoEvent : Obligations.IllegalJumpGivesNoEvent := by
  refine ⟨fun n t s hm hn => ⟨_, exec_step _ t s, ?_⟩, fun n t s hm hn => ⟨_, exec_step _ t s, ?_⟩⟩ <;>
    rw [outputs_dirO, decoderEdge_stateQ, nextByte_eq, hm, hn]
  · exact tableWord_fullPosition_compl n
  · exact tableWord_halfPosition_compl n

/-- Settles O19: STEP loads a word of a degenerate row. -/
theorem degenerateNodeStepsToStart : Obligations.DegenerateNodeStepsToStart := by
  intro c t s h
  refine ⟨_, exec_step c t s, ?_, rfl⟩
  rw [decoderEdge_stateQ, nextByte_eq, tableWord_degenerate _ _ _ h]

/-- Settles O20: STEP loads a word of the table. -/
theorem stepAlwaysLandsOnALegalByte : Obligations.StepAlwaysLandsOnALegalByte :=
  fun c t s => ⟨_, exec_step c t s, nextByte_legal _ _ _⟩

/-- Settles O51: the first sample after RESET reads the row of node START. -/
theorem firstSampleAfterResetGivesNoEvent : Obligations.FirstSampleAfterResetGivesNoEvent := by
  intro c t s
  have hnode : nodeOf 0x00#8 = 0x0#4 := by decide
  refine ⟨_, _, exec_reset s, exec_step c t _, ?_, ?_⟩ <;>
    simp only [outputs_dirO, decoderEdge_stateQ, resetEdge_build, resetEdge_stateQ, nextByte_eq, hnode]
  · exact tableWord_start_dir _ c
  · rintro rfl
    cases s.build.mode <;> decide

end Sys2Proof.Machine
end

section
/-! Proofs of the family other, runs as the decoder sees them: the decoder's ports after each edge are a function of the
state byte and of the operations' views alone (spec/41_decoder_step.md), so events of a run are counted on views. -/

namespace Sys2Proof.Machine

/-! ### What the decoder does with a view -/

/-- The state byte after an edge of a view. -/
def viewByte (m : Mode) (b : Byte) : DecoderView → Byte
  | .reset => 0x00#8
  | .hold => b
  | .sample c => nextByte m b c

/-- `step_done_q` after an edge of a view (R14). -/
def viewDone : DecoderView → Bool
  | .reset => false
  | .hold => false
  | .sample _ => true

/-- The decoder's ports after each edge of a run of views. -/
def viewTrace (m : Mode) : Byte → List DecoderView → List (Byte × Dir × Bool)
  | _, [] => []
  | b, v :: vs => (viewByte m b v, dirOf (viewByte m b v), viewDone v) :: viewTrace m (viewByte m b v) vs

/-- The state byte at the end of a run of views. -/
def viewEnd (m : Mode) (b : Byte) (vs : List DecoderView) : Byte := vs.foldl (viewByte m) b

/-- `freshEvent`, read off the decoder's ports (R74). -/
def freshView (o : Byte × Dir × Bool) : Bool := o.2.2 && isClick o.2.1

/-- The views of a run of samples. -/
abbrev sampleViews (codes : List Code) : List DecoderView := codes.map .sample

/-- An operation that completes does to the decoder's registers what its view says. -/
theorem exec_view {i : Instr} {s t : State} (h : exec i s = .next t) :
    t.stateQ = viewByte s.build.mode s.stateQ (decoderView i) ∧ t.stepDoneQ = viewDone (decoderView i) := by
  rcases exec_next_cases h with
    ⟨rfl, rfl⟩ | ⟨rfl, rfl⟩ | ⟨c, n, rfl, rfl⟩ | ⟨p, u, rfl, -, rfl⟩ | ⟨c, n, p, u, rfl, -, rfl⟩
  all_goals exact ⟨rfl, rfl⟩

/-- A run that completes shows on the decoder's ports the trace of its views. -/
theorem observe_view {ops : List Instr} {s z : State} {os : List Outputs} (h : observe ops s = some (os, z)) :
    os.map decoderOutputs = viewTrace s.build.mode s.stateQ (ops.map decoderView) ∧
    z.stateQ = viewEnd s.build.mode s.stateQ (ops.map decoderView) := by
  induction ops generalizing s os with
  | nil =>
    cases h
    exact ⟨rfl, rfl⟩
  | cons i ops ih =>
    obtain ⟨-, t, ht⟩ | ⟨-, hr⟩ := exec_outcome i s
    · rw [observe_cons_next ht] at h
      obtain ⟨⟨os', z'⟩, hrest, hz⟩ := Option.map_eq_some_iff.1 h
      cases hz
      obtain ⟨hos, hend⟩ := ih hrest
      obtain ⟨hbyte, hdone⟩ := exec_view ht
      rw [exec_build ht, hbyte] at hos hend
      refine ⟨?_, hend⟩
      rw [List.map_cons, List.map_cons, viewTrace, hos, ← hbyte, ← hdone]
      rfl
    · rw [observe_cons_refused hr] at h
      cases h

/-- A run of operations that exist on the instance completes. -/
theorem observe_completes {ops : List Instr} {s : State} (h : ∀ i ∈ ops, i.wellFormed s.speedEnable = true) :
    ∃ os z, observe ops s = some (os, z) := by
  induction ops generalizing s with
  | nil => exact ⟨[], s, rfl⟩
  | cons i ops ih =>
    obtain ⟨hi, hops⟩ := List.forall_mem_cons.1 h
    obtain ⟨t, ht⟩ := (exec_completes_iff i s).2 hi
    rw [← exec_speedEnable ht] at hops
    obtain ⟨os, z, hz⟩ := ih hops
    exact ⟨_, z, by rw [observe_cons_next ht, hz]; rfl⟩

/-- The events of a run can be counted on the decoder's ports. -/
theorem eventCount_eq_countP (os : List Outputs) : eventCount os = (os.map decoderOutputs).countP freshView := by
  rw [List.countP_map]
  rfl

/-! ### Traces of views -/

theorem viewTrace_append (m : Mode) (b : Byte) (vs ws : List DecoderView) :
    viewTrace m b (vs ++ ws) = viewTrace m b vs ++ viewTrace m (viewEnd m b vs) ws := by
  induction vs generalizing b with
  | nil => rfl
  | cons v vs ih => rw [List.cons_append, viewTrace, viewTrace, ih, List.cons_append]; rfl

theorem viewEnd_append (m : Mode) (b : Byte) (vs ws : List DecoderView) :
    viewEnd m b (vs ++ ws) = viewEnd m (viewEnd m b vs) ws :=
  List.foldl_append

/-- Idle edges hold the byte and its direction and show no fresh event (R75). -/
theorem viewTrace_hold (m : Mode) (b : Byte) (n : Nat) :
    viewTrace m b (List.replicate n .hold) = List.replicate n (b, dirOf b, false) := by
  induction n with
  | zero => rfl
  | succ n ih => rw [List.replicate_succ, viewTrace, List.replicate_succ]; exact congrArg _ ih

theorem viewEnd_hold (m : Mode) (b : Byte) (n : Nat) : viewEnd m b (List.replicate n .hold) = b := by
  induction n with
  | zero => rfl
  | succ n ih => exact ih

/-- A run of samples from a byte at node START is the run from 0x00 (R54). -/
theorem viewTrace_start {b : Byte} (h : nodeOf b = 0x0#4) (m : Mode) (codes : List Code) :
    viewTrace m b (sampleViews codes) = viewTrace m 0x00#8 (sampleViews codes) := by
  cases codes with
  | nil => rfl
  | cons c codes =>
    have hnext : nextByte m b c = nextByte m 0x00#8 c := nextByte_of_nodeOf_eq (b' := 0x00#8) h m c
    rw [sampleViews, List.map_cons, viewTrace, viewTrace, viewByte, viewByte, hnext]

/-- Such a run ends at the node where the run from 0x00 ends (R54). -/
theorem nodeOf_viewEnd_start {b : Byte} (h : nodeOf b = 0x0#4) (m : Mode) (codes : List Code) :
    nodeOf (viewEnd m b (sampleViews codes)) = nodeOf (viewEnd m 0x00#8 (sampleViews codes)) := by
  cases codes with
  | nil => exact h
  | cons c codes =>
    have hnext : nextByte m b c = nextByte m 0x00#8 c := nextByte_of_nodeOf_eq (b' := 0x00#8) h m c
    rw [sampleViews, List.map_cons, viewEnd, viewEnd, List.foldl_cons, List.foldl_cons, viewByte, viewByte, hnext]

/-- An idle edge shows no fresh event (R75). -/
theorem countP_viewTrace_hold_cons (m : Mode) (b : Byte) (vs : List DecoderView) :
    (viewTrace m b (.hold :: vs)).countP freshView = (viewTrace m b vs).countP freshView :=
  List.countP_cons_of_neg Bool.false_ne_true

/-- A sample shows the event of its word (R74). -/
theorem countP_viewTrace_sample_cons (m : Mode) (b : Byte) (c : Code) (vs : List DecoderView) :
    (viewTrace m b (.sample c :: vs)).countP freshView =
      (viewTrace m (nextByte m b c) vs).countP freshView + if isClick (dirOf (nextByte m b c)) then 1 else 0 :=
  List.countP_cons

/-! ### Samples at one time, then idle edges (R52) -/

theorem map_decoderView_steps (samples : List (Code × Time)) :
    (steps samples).map decoderView = sampleViews (samples.map Prod.fst) := by
  simp [steps, decoderView]

theorem map_decoderView_seqAt (codes : List Code) (t : Time) : (seqAt codes t).map decoderView = sampleViews codes := by
  simp [seqAt, decoderView]

theorem map_decoderView_nopTimes (n : Nat) : (nopTimes n).map decoderView = List.replicate n .hold :=
  List.map_replicate

/-- STEP and NOP exist on every instance. -/
theorem seqAt_nopTimes_wellFormed (codes : List Code) (t : Time) (n : Nat) (speedEnable : Bool) :
    ∀ i ∈ seqAt codes t ++ nopTimes n, i.wellFormed speedEnable = true := by
  intro i hi
  rcases List.mem_append.1 hi with hi | hi
  · obtain ⟨c, -, rfl⟩ := List.mem_map.1 hi
    rfl
  · obtain rfl := List.eq_of_mem_replicate hi
    rfl

/-- From node START, samples at one time and then any number of idle edges show the fresh events of the samples from 0x00,
and no others, and end at the node where the samples end. -/
theorem observe_seqAt_nopTimes (codes : List Code) (t : Time) (n : Nat) {s : State} (h : nodeOf s.stateQ = 0x0#4) :
    ∃ os z, observe (seqAt codes t ++ nopTimes n) s = some (os, z) ∧
      eventCount os = (viewTrace s.build.mode 0x00#8 (sampleViews codes)).countP freshView ∧
      (∀ o ∈ os, freshEvent o = true → decoderOutputs o ∈ viewTrace s.build.mode 0x00#8 (sampleViews codes)) ∧
      nodeOf z.stateQ = nodeOf (viewEnd s.build.mode 0x00#8 (sampleViews codes)) := by
  obtain ⟨os, z, hos⟩ := observe_completes (seqAt_nopTimes_wellFormed codes t n s.speedEnable)
  obtain ⟨htrace, hend⟩ := observe_view hos
  rw [List.map_append, map_decoderView_seqAt, map_decoderView_nopTimes] at htrace hend
  rw [viewTrace_append, viewTrace_start h, viewTrace_hold] at htrace
  rw [viewEnd_append, viewEnd_hold] at hend
  refine ⟨os, z, hos, ?_, fun o ho hfresh => ?_, by rw [hend, nodeOf_viewEnd_start h]⟩
  · rw [eventCount_eq_countP, htrace, List.countP_append]
    simp [List.countP_replicate, freshView]
  · have hmem : decoderOutputs o ∈ os.map decoderOutputs := List.mem_map_of_mem ho
    rw [htrace] at hmem
    refine (List.mem_append.1 hmem).resolve_right fun hidle => ?_
    have hdone : o.stepDoneO = false := congrArg (fun d => d.2.2) (List.eq_of_mem_replicate hidle)
    simp [freshEvent, hdone] at hfresh

/-- The events of one detent (R52). -/
def eventsPerDetent : Mode → Nat
  | .fullStep => 1
  | .halfStep => 2

/-- Samples that make one detent in a direction from 0x00: the directions of their events, and node START at the end. -/
abbrev IsDetent (codes : List Code) (d : Dir) : Prop :=
  ∀ m : Mode,
    ((viewTrace m 0x00#8 (sampleViews codes)).filter freshView).map (fun o => o.2.1) =
      List.replicate (eventsPerDetent m) d ∧
    nodeOf (viewEnd m 0x00#8 (sampleViews codes)) = 0x0#4

theorem isDetent_cw : IsDetent [0b10#2, 0b11#2, 0b01#2, 0b00#2] 0b01#2 := by
  intro m
  cases m <;> decide

theorem isDetent_ccw : IsDetent [0b01#2, 0b11#2, 0b10#2, 0b00#2] 0b10#2 := by
  intro m
  cases m <;> decide

/-- The samples of a detent make it from every state at node START, and idle edges after them add nothing. -/
theorem observe_detent {codes : List Code} {d : Dir} (hd : IsDetent codes d) (t : Time) (n : Nat) {s : State}
    (h : nodeOf s.stateQ = 0x0#4) :
    ∃ os z, observe (seqAt codes t ++ nopTimes n) s = some (os, z) ∧ eventCount os = eventsPerDetent s.build.mode ∧
      (∀ o ∈ os, freshEvent o = true → o.dirO = d) ∧ nodeOf z.stateQ = 0x0#4 := by
  obtain ⟨os, z, hos, hcount, hmem, hend⟩ := observe_seqAt_nopTimes codes t n h
  obtain ⟨hevents, hnode⟩ := hd s.build.mode
  refine ⟨os, z, hos, ?_, fun o ho hfresh => ?_, hend.trans hnode⟩
  · simpa [hcount, List.countP_eq_length_filter] using congrArg List.length hevents
  · have hmem := List.mem_filter (p := freshView) |>.2 ⟨hmem o ho hfresh, hfresh⟩
    have hdir := List.mem_map_of_mem (f := fun o => o.2.1) hmem
    rw [hevents] at hdir
    exact List.eq_of_mem_replicate hdir

/-! ### Bounce between two codes -/

/-- The nodes that a bounce between two codes can be at after an event: the node it ends at, which is START where one code
is 00 and START_MID otherwise (number 3 in half step; in full step no event comes without 00), and the two nodes that the
codes lead to from there. -/
def bounceNodes (m : Mode) (a b : Code) : List Nibble :=
  let rest : Nibble := if a = 0b00#2 ∨ b = 0b00#2 then 0x0#4 else 0x3#4
  [rest, nodeOf (tableWord m rest a), nodeOf (tableWord m rest b)]

/-- Two codes that differ in one signal. -/
abbrev Adjacent (a b : Code) : Prop := a ^^^ b = 0b01#2 ∨ a ^^^ b = 0b10#2

/-- An event leads to one of these nodes. -/
theorem bounceNodes_of_event (m : Mode) (a b : Code) (n : Nibble) (c : Code) (hab : Adjacent a b) (hc : c = a ∨ c = b)
    (h : isClick (dirOf (tableWord m n c)) = true) : nodeOf (tableWord m n c) ∈ bounceNodes m a b := by
  cases m <;> (revert a b n c; decide)

/-- At one of these nodes neither code gives an event or leads away. -/
theorem bounceNodes_closed (m : Mode) (a b : Code) (n : Nibble) (c : Code) (hab : Adjacent a b) (hc : c = a ∨ c = b)
    (h : n ∈ bounceNodes m a b) :
    isClick (dirOf (tableWord m n c)) = false ∧ nodeOf (tableWord m n c) ∈ bounceNodes m a b := by
  cases m <;> (revert a b n c; decide)

/-- The views of a bounce between two codes: their samples and idle edges. -/
abbrev BounceViews (a b : Code) (vs : List DecoderView) : Prop :=
  ∀ v ∈ vs, v = .hold ∨ ∃ c, (c = a ∨ c = b) ∧ v = .sample c

/-- After an event a bounce shows no other. -/
theorem countP_viewTrace_bounce_spent {m : Mode} {a b : Code} {w : Byte} {vs : List DecoderView} (hab : Adjacent a b)
    (hvs : BounceViews a b vs) (hw : nodeOf w ∈ bounceNodes m a b) : (viewTrace m w vs).countP freshView = 0 := by
  induction vs generalizing w with
  | nil => rfl
  | cons v vs ih =>
    obtain ⟨hv, htail⟩ := List.forall_mem_cons.1 hvs
    obtain rfl | ⟨c, hc, rfl⟩ := hv
    · rw [countP_viewTrace_hold_cons, ih htail hw]
    · obtain ⟨hevent, hnode⟩ := bounceNodes_closed m a b (nodeOf w) c hab hc hw
      rw [← nextByte_eq] at hevent hnode
      rw [countP_viewTrace_sample_cons, ih htail hnode, hevent]
      rfl

/-- A bounce shows at most one event: up to the first there is none, and after it there is none. -/
theorem countP_viewTrace_bounce_le_one {m : Mode} {a b : Code} {w : Byte} {vs : List DecoderView} (hab : Adjacent a b)
    (hvs : BounceViews a b vs) : (viewTrace m w vs).countP freshView ≤ 1 := by
  induction vs generalizing w with
  | nil => exact Nat.zero_le 1
  | cons v vs ih =>
    obtain ⟨hv, htail⟩ := List.forall_mem_cons.1 hvs
    obtain rfl | ⟨c, hc, rfl⟩ := hv
    · rw [countP_viewTrace_hold_cons]
      exact ih htail
    · rw [countP_viewTrace_sample_cons]
      cases hevent : isClick (dirOf (nextByte m w c)) with
      | false => exact ih htail
      | true =>
        have hnode : nodeOf (nextByte m w c) ∈ bounceNodes m a b := by
          rw [nextByte_eq] at hevent ⊢
          exact bounceNodes_of_event m a b (nodeOf w) c hab hc hevent
        rw [countP_viewTrace_bounce_spent hab htail hnode]
        rfl

/-! ### The statements -/

/-- Settles O41: `step_done_q` is what the view of the decoded operation says. -/
theorem stepDonePulsesAfterStep : Obligations.StepDonePulsesAfterStep := by
  intro x s s' h
  obtain ⟨-, hdone⟩ := exec_view (cycle_next h).2
  refine ⟨?_, rfl⟩
  change s'.stepDoneQ = (!x.rst && x.step)
  rw [hdone]
  rcases decode_cases x with ⟨hr, hd⟩ | ⟨hr, hs, -, hd⟩ | ⟨hr, hs, -, hd⟩ | ⟨hr, hs, -, hd⟩ | ⟨hr, hs, -, hd⟩
  case inl => -- RESET, whatever `step_i` is
    rw [hd, hr]
    rfl
  all_goals
    rw [hd, hr, hs]
    rfl

/-- Settles O48: both runs show the trace of the same views from the same byte. -/
theorem eventsIndependentOfTheSpeedUnit : Obligations.EventsIndependentOfTheSpeedUnit := by
  intro ops1 ops2 s1 s2 r1 r2 hview hmode hbyte h1 h2
  obtain ⟨htrace1, hend1⟩ := observe_view (os := r1.1) (z := r1.2) h1
  obtain ⟨htrace2, hend2⟩ := observe_view (os := r2.1) (z := r2.2) h2
  rw [hview, hmode, hbyte] at htrace1 hend1
  exact ⟨htrace1.trans htrace2.symm, hend1.trans hend2.symm⟩

/-- Settles O21: the run shows the trace of its codes from 0x00, which is evaluated for each of the four sequences. -/
theorem cleanDetentEvents : Obligations.CleanDetentEvents := by
  intro samples s hstart
  have hwf : ∀ i ∈ steps samples, i.wellFormed s.speedEnable = true := by
    intro i hi
    obtain ⟨x, -, rfl⟩ := List.mem_map.1 hi
    rfl
  obtain ⟨os, z, hos⟩ := observe_completes hwf
  obtain ⟨htrace, hend⟩ := observe_view hos
  rw [map_decoderView_steps] at htrace hend
  rw [viewTrace_start hstart] at htrace
  have hdir : os.map Outputs.dirO =
      (viewTrace s.build.mode 0x00#8 (sampleViews (samples.map Prod.fst))).map (fun d => d.2.1) := by
    rw [← htrace, List.map_map]
    rfl
  have hnode := nodeOf_viewEnd_start hstart s.build.mode (samples.map Prod.fst)
  rw [← hend] at hnode
  refine ⟨os, z, hos, fun hc => ?_, fun hc => ?_, fun hc => ?_, fun hc => ?_⟩ <;>
    rw [hc] at hdir hnode
  · rw [hdir]; cases s.build.mode <;> decide
  · rw [hdir]; cases s.build.mode <;> decide
  · rw [hdir, hnode]; cases s.build.mode <;> decide
  · rw [hdir]; cases s.build.mode <;> decide

/-- Settles O22: the samples of each pseudo-operation make one detent of its direction. -/
theorem detentPseudoOperationsGiveTheirEvents : Obligations.DetentPseudoOperationsGiveTheirEvents :=
  fun t n _ hstart => ⟨observe_detent isDetent_cw t n hstart, observe_detent isDetent_ccw t n hstart⟩

/-- Settles O24: the views of such a run are a bounce. -/
theorem bounceGivesAtMostOneEvent : Obligations.BounceGivesAtMostOneEvent := by
  intro a b hab ops hops s
  have hwf : ∀ i ∈ ops, i.wellFormed s.speedEnable = true := by
    intro i hi
    obtain rfl | ⟨c, t, -, rfl⟩ := hops i hi <;> rfl
  have hviews : BounceViews a b (ops.map decoderView) := by
    intro v hv
    obtain ⟨i, hi, rfl⟩ := List.mem_map.1 hv
    obtain rfl | ⟨c, t, hc, rfl⟩ := hops i hi
    · exact .inl rfl
    · exact .inr ⟨c, hc, rfl⟩
  obtain ⟨os, z, hos⟩ := observe_completes hwf
  refine ⟨os, z, hos, ?_⟩
  rw [eventCount_eq_countP, (observe_view hos).1]
  exact countP_viewTrace_bounce_le_one hab hviews

end Sys2Proof.Machine
end

section
/-! Proof of the family other, the mirror: exchanging the two signals mirrors every operation
(spec/40_transition_table.md section 2). -/

namespace Sys2Proof.Machine

/-! ### The mirror of a byte -/

theorem nodeOf_append (z : BitVec 2) (d : Dir) (n : Nibble) : nodeOf (z ++ d ++ n) = n := by
  revert z d n
  decide

theorem dirOf_append (z : BitVec 2) (d : Dir) (n : Nibble) : dirOf (z ++ d ++ n) = d := by
  revert z d n
  decide

/-- The mirrored byte is at the mirrored node. -/
theorem nodeOf_mirrorByte (m : Mode) (b : Byte) : nodeOf (mirrorByte m b) = mirrorNode m (nodeOf b) :=
  nodeOf_append _ _ _

/-- The mirrored byte shows the mirrored direction. -/
theorem dirOf_mirrorByte (m : Mode) (b : Byte) : dirOf (mirrorByte m b) = mirrorDir (dirOf b) :=
  dirOf_append _ _ _

/-- Reset's byte is its own mirror. -/
theorem mirrorByte_reset (m : Mode) : mirrorByte m 0x00#8 = 0x00#8 := by cases m <;> decide

/-- The mirrored byte, sampled with the mirrored code, loads the mirrored word. -/
theorem nextByte_mirror (m : Mode) (b : Byte) (c : Code) :
    nextByte m (mirrorByte m b) (mirrorCode c) = mirrorByte m (nextByte m b c) := by
  rw [nextByte_eq, nextByte_eq, nodeOf_mirrorByte, tableWord_mirror]

/-! ### The mirror of an operation -/

/-- A click counts whatever its sign (R81). -/
theorem isClick_mirrorDir (d : Dir) : isClick (mirrorDir d) = isClick d := by
  revert d
  decide

/-- The speed window does not see the sign of an event (R80). -/
theorem speedWindow_mirrorDir (d : Dir) : speedWindow (mirrorDir d) = speedWindow d := by
  funext now u
  simp only [speedWindow, countClick, isClick_mirrorDir]

theorem decoderEdge_mirror (c : Code) (n : Time) (s : State) :
    decoderEdge (mirrorCode c) n (mirrorState s) = mirrorState (decoderEdge c n s) := by
  simp only [decoderEdge, mirrorState, nextByte_mirror, dirOf_mirrorByte, speedWindow_mirrorDir]

theorem resetEdge_mirror (s : State) : resetEdge (mirrorState s) = mirrorState (resetEdge s) := by
  simp only [resetEdge, mirrorState, mirrorByte_reset]

/-- The output ports of the mirrored state. -/
theorem outputs_mirrorState (s : State) : outputs (mirrorState s) = mirrorOutputs s.build.mode (outputs s) := by
  simp only [outputs, mirrorState, mirrorOutputs, dirOf_mirrorByte]

theorem mirrorInstr_wellFormed (i : Instr) (speedEnable : Bool) :
    (mirrorInstr i).wellFormed speedEnable = i.wellFormed speedEnable := by
  cases i <;> rfl

/-- The mirrored operation does to the mirrored state the mirror of what the operation does. -/
theorem exec_mirror {i : Instr} {s t : State} (h : exec i s = .next t) :
    exec (mirrorInstr i) (mirrorState s) = .next (mirrorState t) := by
  rcases exec_next_cases h with
    ⟨rfl, rfl⟩ | ⟨rfl, rfl⟩ | ⟨c, n, rfl, rfl⟩ | ⟨p, u, rfl, hu, rfl⟩ | ⟨c, n, p, u, rfl, hu, rfl⟩
  · rw [← resetEdge_mirror]
    rfl
  · rfl
  · rw [← decoderEdge_mirror]
    rfl
  · exact exec_cfgPeriod_some (s := mirrorState s) hu
  · rw [mirrorInstr, exec_stepCfg_some (s := mirrorState s) hu, decoderEdge_mirror, mirrorState_stateQ, mirrorState_build,
      nextByte_mirror, dirOf_mirrorByte, speedWindow_mirrorDir]
    rfl

/-- The mirrored operation is refused where the operation is. -/
theorem exec_mirror_refused {i : Instr} {s : State} (h : i.wellFormed s.speedEnable = false) :
    exec (mirrorInstr i) (mirrorState s) = .refused .cfgPeriodWithoutSpeedUnit := by
  obtain ⟨hw, -⟩ | ⟨-, hr⟩ := exec_outcome (mirrorInstr i) (mirrorState s)
  · exact absurd (((mirrorInstr_wellFormed i _).symm.trans hw).symm.trans h) (by decide)
  · exact hr

/-! ### The statement -/

/-- Settles O23, by induction on the operations: each of them is mirrored edge by edge. -/
theorem turningTheOtherWayMirrorsEveryRun : Obligations.TurningTheOtherWayMirrorsEveryRun := by
  intro ops
  induction ops with
  | nil => exact fun _ => rfl
  | cons i ops ih =>
    intro s
    obtain ⟨-, t, ht⟩ | ⟨hw, hr⟩ := exec_outcome i s
    · rw [List.map_cons, observe_cons_next (exec_mirror ht), observe_cons_next ht, ih t, outputs_mirrorState, exec_build ht]
      simp only [Option.map_map, Function.comp_def, List.map_cons]
    · rw [List.map_cons, observe_cons_refused (exec_mirror_refused hw), observe_cons_refused hr]
      rfl

end Sys2Proof.Machine
end

section
/-! Proofs of the family other, the results of the operations in plain numbers, and the state after reset
(spec/42_speed.md, spec/10_state.md section 6, spec/70_reset_and_hazards.md section 1). -/

namespace Sys2Proof.Machine

/-! ### The speed window in numbers (R80 to R85) -/

/-- The value a closing window stores, from the count and the quotient (R83). -/
theorem speedValue_eq {k p : Word16} {c1 q : Nat} (hk : k.toNat = c1) (hq : periodFactor p = q) :
    speedValue k p = BitVec.ofNat 16 (min (c1 * q) 65535) := by
  rw [speedValue, hk, hq]
  rfl

/-- The window at the event of a byte, with its count as a number, its test on the times as numbers, and its quotient as
given. -/
theorem speedWindow_eq {w : Byte} {now : Time} {u : SpeedUnit} {c1 q : Nat}
    (hc : c1 = if w.extractLsb' 4 2 = 0b00#2 then u.clicksQ.toNat else min (u.clicksQ.toNat + 1) 65535)
    (hq : periodFactor u.periodQ = q) :
    speedWindow (dirOf w) now u =
      if u.periodQ.toNat ≤ (now.toNat + 2 ^ 32 - u.lastQ.toNat) % 2 ^ 32 then
        { periodQ := u.periodQ, clicksQ := 0#16, lastQ := now, speedQ := BitVec.ofNat 16 (min (c1 * q) 65535) }
      else
        { periodQ := u.periodQ, clicksQ := BitVec.ofNat 16 c1, lastQ := u.lastQ, speedQ := u.speedQ } := by
  have hk : (countClick u.clicksQ (dirOf w)).toNat = c1 := (countClick_toNat _ _).trans hc.symm
  rw [← elapsed_toNat]
  split
  case isTrue hclose => rw [speedWindow_of_closes hclose, speedValue_eq hk hq]
  case isFalse hopen =>
    rw [speedWindow_of_open (Nat.lt_of_not_le hopen), ← hk, BitVec.ofNat_toNat, BitVec.setWidth_eq]

/-- The window writes `speed_q` only where it closes (R83, R85). -/
theorem closes_of_speedWindow_speedQ_ne {d : Dir} {now : Time} {u : SpeedUnit}
    (h : (speedWindow d now u).speedQ ≠ u.speedQ) : u.periodQ.toNat ≤ (now - u.lastQ).toNat :=
  by_contra fun ho => h (by rw [speedWindow_of_open (Nat.lt_of_not_le ho)])

/-- The speed that a closing window of a period other than 0 stores (R83). -/
theorem speedWindow_speedQ_toNat {d : Dir} {now : Time} {u : SpeedUnit} (hp : u.periodQ ≠ 0#16)
    (hc : u.periodQ.toNat ≤ (now - u.lastQ).toNat) :
    (speedWindow d now u).speedQ.toNat =
      min ((if d = 0b00#2 then u.clicksQ.toNat else min (u.clicksQ.toNat + 1) 65535) * (1000 / u.periodQ.toNat)) 65535 := by
  rw [speedWindow_of_closes hc, speedValue, sat16_toNat, countClick_toNat, periodFactor_of_ne_zero hp]

/-- Times that a 32-bit clock shows for true times: the elapsed time is the true difference modulo 2^32 (D15). -/
theorem elapsed_ofNat {t0 t1 : Nat} (h : t0 ≤ t1) :
    (BitVec.ofNat 32 t1 - BitVec.ofNat 32 t0).toNat = (t1 - t0) % 2 ^ 32 := by
  have he := elapsed_toNat (BitVec.ofNat 32 t1) (BitVec.ofNat 32 t0)
  rw [elapsed, BitVec.toNat_ofNat, BitVec.toNat_ofNat] at he
  omega

/-! ### What a sampling edge leaves -/

/-- An edge that performs STEP with the speed unit, written out. -/
theorem decoderEdge_of_some {s : State} {u : SpeedUnit} (h : s.speedUnit = some u) (c : Code) (n : Time) :
    decoderEdge c n s = { s with
      stateQ := nextByte s.build.mode s.stateQ c
      stepDoneQ := true
      speedUnit := some (speedWindow (dirOf (nextByte s.build.mode s.stateQ c)) n u) } := by
  simp only [decoderEdge, h, Option.map_some, stepDoneNext_running]

/-! ### Resets -/

/-- A well-formed build has a legal default period (R5). -/
theorem build_wellFormed_iff (b : Build) : b.wellFormed = true ↔ LegalPeriod b.defaultPeriod := decide_eq_true_iff

/-- RESET leaves the reset state of the build and the layout, with the stream kept (R27). -/
theorem resetEdge_eq (s : State) : resetEdge s = { State.resetOf s.build s.speedEnable with inputs := s.inputs } := by
  obtain hu | ⟨u, hu⟩ := s.speedUnit.eq_none_or_eq_some
  · simp [resetEdge, State.resetOf, State.speedEnable, hu]
  · simp [resetEdge, State.resetOf, State.speedEnable, hu]

/-- The reset state of a build with a legal default period is legal. -/
theorem resetOf_legal {b : Build} (h : LegalPeriod b.defaultPeriod) (speedEnable : Bool) :
    (State.resetOf b speedEnable).Legal := by
  refine ⟨resetByte_legal _, h, fun u hu => ?_⟩
  cases speedEnable with
  | true =>
    obtain rfl := Option.some.inj hu
    exact h
  | false => cases hu

/-- From reset a step without an event moves the boundary where its time has reached the default period, and leaves the
rest (R106). -/
theorem speedWindow_reset (b : Build) (t : Time) :
    speedWindow 0b00#2 t (SpeedUnit.reset b) =
      { periodQ := b.defaultPeriod, clicksQ := 0#16, speedQ := 0#16,
        lastQ := if b.defaultPeriod.toNat ≤ t.toNat then t else 0#32 } := by
  have ht : (t - (SpeedUnit.reset b).lastQ).toNat = t.toNat := by simp
  split
  case isTrue h =>
    rw [speedWindow_of_closes (by rw [ht]; exact h), countClick_none,
      speedValue_eq (c1 := 0) rfl rfl, Nat.zero_mul]
    rfl
  case isFalse h =>
    rw [speedWindow_of_open (by rw [ht]; exact Nat.lt_of_not_le h)]
    rfl

/-! ### The statements -/

/-- Settles O12: an edge that performs STEP without the speed unit, its word read at `{state_q[3:0], code}`. -/
theorem stepWithoutSpeedUnitResult : Obligations.StepWithoutSpeedUnitResult := by
  intro c t s hu
  rw [exec_step, decoderEdge_of_none hu, nextByte_eq_romByte]

/-- Settles O13: the speed window in numbers, with the truncated quotient. -/
theorem stepWithSpeedUnitResult : Obligations.StepWithSpeedUnitResult := by
  intro c t s u w c1 hu hp hw hc
  subst hw
  rw [exec_step, decoderEdge_of_some hu, nextByte_eq_romByte, speedWindow_eq hc (periodFactor_of_ne_zero hp)]

/-- Settles O27: the speed window in numbers, with the period register written over it. -/
theorem stepCfgResult : Obligations.StepCfgResult := by
  intro c t p s u w c1 newPeriod hu hp hw hc hnew
  subst hw hnew
  rw [exec_stepCfg_some hu, nextByte_eq_romByte, speedWindow_eq hc (periodFactor_of_ne_zero hp), configuredPeriod_eq]
  split <;> rfl

/-- Settles O14, with the free quotient of 1000: a period of 0 closes every window. -/
theorem stepAtPeriodZeroCompletes : Obligations.StepAtPeriodZeroCompletes := by
  refine ⟨Config.divByZero 1000, fun c t p s u w c1 hu hp hw hc => ?_⟩
  have hwindow : speedWindow (dirOf w) t u = ⟨0#16, 0#16, t, BitVec.ofNat 16 (min (c1 * Config.divByZero 1000) 65535)⟩ := by
    rw [speedWindow_eq hc (q := Config.divByZero 1000) (by rw [hp, periodFactor_zero]), hp]
    exact if_pos (Nat.zero_le _)
  subst hw
  rw [← nextByte_eq_romByte] at hwindow ⊢
  refine ⟨?_, ?_⟩
  · rw [exec_step, decoderEdge_of_some hu, hwindow]
  · rw [exec_stepCfg_some hu, hwindow, configuredPeriod_eq, hp]
    rfl

/-- Settles O26: CFG_PERIOD's effect, with the range of the operand written out. -/
theorem cfgPeriodResult : Obligations.CfgPeriodResult := by
  intro p s u hu
  rw [exec_cfgPeriod_some hu, configuredPeriod_eq]

/-- Settles O28: the speed window does not write the period register, so the two writes do not meet. -/
theorem stepCfgIsStepThenPeriodWrite : Obligations.StepCfgIsStepThenPeriodWrite := by
  intro c t p s hs
  obtain ⟨u, hu⟩ := Option.isSome_iff_exists.1 hs
  have hu' := decoderEdge_speedUnit c t s
  rw [hu, Option.map_some] at hu'
  refine ⟨_, _, exec_step c t s, exec_cfgPeriod_some hu', ?_⟩
  rw [exec_stepCfg_some hu, speedWindow_periodQ]
  rfl

/-- Settles O29: the two operations refuse where the speed unit is absent. -/
theorem cfgOperationsNeedTheSpeedUnit : Obligations.CfgOperationsNeedTheSpeedUnit :=
  fun _ _ _ _ hu => ⟨exec_cfgPeriod_none hu, exec_stepCfg_none hu⟩

/-- Settles O34: the window tests the true difference modulo 2^32. -/
theorem clockWrapIsBenign : Obligations.ClockWrapIsBenign := by
  intro c t0 t1 s u hu hlast hle
  have helapsed : (BitVec.ofNat 32 t1 - u.lastQ).toNat = (t1 - t0) % 2 ^ 32 := hlast ▸ elapsed_ofNat hle
  have hu' := decoderEdge_speedUnit c (BitVec.ofNat 32 t1) s
  rw [hu, Option.map_some] at hu'
  refine ⟨_, _, exec_step c _ s, hu', fun hc => ?_, fun ho => ?_⟩
  · rw [speedWindow_of_closes (helapsed ▸ hc)]
    exact ⟨rfl, rfl⟩
  · rw [speedWindow_of_open (helapsed ▸ ho)]
    exact ⟨hlast, rfl⟩

/-- Settles O39, by cases on the operation: beside RESET only the speed window writes `speed_q`, and only where it
closes. -/
theorem speedRegisterWrittenOnlyAtClose : Obligations.SpeedRegisterWrittenOnlyAtClose := by
  intro i s s' u u' h hu hu'
  rcases exec_speedUnit_cases h hu hu' with
    ⟨rfl, rfl⟩ | ⟨rfl, rfl⟩ | ⟨c, n, rfl, rfl⟩ | ⟨p, rfl, rfl⟩ | ⟨c, n, p, rfl, rfl⟩
  case inl => -- RESET
    simp
  case inr.inl => -- NOP
    simp
  case inr.inr.inr.inl => -- CFG_PERIOD
    simp
  all_goals -- STEP and STEP_CFG, which sample alike
    refine ⟨fun hne => .inr ⟨c, n, by simp, closes_of_speedWindow_speedQ_ne hne⟩, fun c' t hi hp hc => ?_, nofun⟩
    obtain ⟨rfl, rfl⟩ : c = c' ∧ n = t := by simpa using hi
    obtain ⟨hbyte, -⟩ := exec_view h
    rw [outputs_dirO, hbyte]
    exact speedWindow_speedQ_toNat hp hc

/-- Settles O43: RESET writes every register of the layout. -/
theorem resetResult : Obligations.ResetResult := by
  refine ⟨fun s hu => ?_, fun s u hu => ?_⟩
  · simp only [exec_reset, resetEdge, hu, Option.map_none, stepDoneNext_reset]
  · simp only [exec_reset, resetEdge, hu, Option.map_some, stepDoneNext_reset, SpeedUnit.reset]

/-- Settles O45: the reset state of the default build, and RESET into the reset state of any. -/
theorem registersAfterReset : Obligations.RegistersAfterReset :=
  ⟨rfl, rfl, rfl, rfl, fun s => by rw [exec_reset, resetEdge_eq]⟩

/-- Settles O46: the reset state takes its period from the build. -/
theorem resetStateIsLegal : Obligations.ResetStateIsLegal :=
  ⟨resetOf_legal (b := Build.default) (by decide) true, fun b e hb => resetOf_legal ((build_wellFormed_iff b).1 hb) e⟩

/-- Settles O49: each port is a view of its register. -/
theorem outputsShowTheRegisters : Obligations.OutputsShowTheRegisters :=
  ⟨fun _ => ⟨rfl, rfl, rfl⟩, fun s u hu => by simp [hu], fun s hu => by simp [hu]⟩

/-- Settles O50: the first sample after RESET has no event, and the window begins at time 0. -/
theorem firstWindowRunsFromTimeZero : Obligations.FirstWindowRunsFromTimeZero := by
  intro c t s hs _
  obtain ⟨u, hu⟩ := Option.isSome_iff_exists.1 hs
  refine ⟨_, _, exec_reset s, exec_step c t _, ?_⟩
  have hdir : dirOf (nextByte s.build.mode 0x00#8 c) = 0b00#2 := by
    rw [nextByte_eq]
    exact tableWord_start_dir _ c
  rw [decoderEdge_speedUnit, resetEdge_speedUnit, resetEdge_build, resetEdge_stateQ, hu, hdir]
  exact congrArg some (speedWindow_reset s.build t)

end Sys2Proof.Machine
end

section
/-! Proofs of the family other, runs and the speed unit: what a window measures, and what idle edges leave
(spec/42_speed.md sections 1 and 4). -/

namespace Sys2Proof.Machine

/-! ### Saturating sums (R81) -/

/-- Saturating twice is saturating once. -/
theorem sat16_sat16_add (a b : Nat) : sat16 ((sat16 a).toNat + b) = sat16 (a + b) := by
  apply BitVec.eq_of_toNat_eq
  simp only [sat16_toNat]
  omega

/-- A register holds its own value. -/
theorem sat16_toNat_self (k : Word16) : sat16 k.toNat = k := by
  apply BitVec.eq_of_toNat_eq
  rw [sat16_toNat]
  omega

/-- The count after a step is the saturating sum with the step's event. -/
theorem countClick_eq_sat16 (k : Word16) (d : Dir) : countClick k d = sat16 (k.toNat + if isClick d then 1 else 0) := by
  rw [countClick]
  split
  case isTrue => rfl
  case isFalse => exact (sat16_toNat_self k).symm

/-! ### Runs inside one window -/

/-- An edge that performs NOP shows no fresh event (R75). -/
theorem freshEvent_nop (s : State) : freshEvent (outputs { s with stepDoneQ := false }) = false := rfl

/-- Inside a window the count is the saturating sum of the environment's events, and the window's other registers hold. -/
theorem observe_open_window {ops : List Instr} {s : State} {u : SpeedUnit} (hu : s.speedUnit = some u)
    (hops : ∀ i ∈ ops, i = .nop ∨ ∃ c t, i = .step c t ∧ (t - u.lastQ).toNat < u.periodQ.toNat) :
    ∃ os z, observe ops s = some (os, z) ∧
      z.speedUnit = some { u with clicksQ := sat16 (u.clicksQ.toNat + eventCount os) } := by
  induction ops generalizing s u with
  | nil => exact ⟨[], s, rfl, by rw [hu, eventCount_nil, Nat.add_zero, sat16_toNat_self]⟩
  | cons i ops ih =>
    obtain ⟨hi, hrest⟩ := List.forall_mem_cons.1 hops
    obtain rfl | ⟨c, t, rfl, hopen⟩ := hi
    · obtain ⟨os, z, hos, hz⟩ := ih (s := { s with stepDoneQ := false }) hu hrest
      refine ⟨_, z, by rw [observe_cons_next (exec_nop s), hos]; rfl, ?_⟩
      rw [hz, eventCount_cons, freshEvent_nop]
      rfl
    · have hv : (decoderEdge c t s).speedUnit =
          some { u with clicksQ := countClick u.clicksQ (dirOf (nextByte s.build.mode s.stateQ c)) } := by
        rw [decoderEdge_speedUnit, hu, Option.map_some, speedWindow_of_open hopen]
      obtain ⟨os, z, hos, hz⟩ := ih hv hrest
      refine ⟨_, z, by rw [observe_cons_next (exec_step c t s), hos]; rfl, ?_⟩
      rw [hz, eventCount_cons, freshEvent_decoderEdge, countClick_eq_sat16, sat16_sat16_add, Nat.add_right_comm,
        Nat.add_assoc]

/-- A STEP that closes the window is a run of one edge. -/
theorem observe_closing_step {c : Code} {t : Time} {s : State} {u : SpeedUnit} (hu : s.speedUnit = some u)
    (hc : u.periodQ.toNat ≤ (t - u.lastQ).toNat) :
    ∃ os z, observe [.step c t] s = some (os, z) ∧
      z.speedUnit = some
        { periodQ := u.periodQ, clicksQ := 0#16, lastQ := t,
          speedQ := speedValue (sat16 (u.clicksQ.toNat + eventCount os)) u.periodQ } := by
  refine ⟨[outputs (decoderEdge c t s)], decoderEdge c t s, by rw [observe_cons_next (exec_step c t s)]; rfl, ?_⟩
  rw [decoderEdge_speedUnit, hu, Option.map_some, speedWindow_of_closes hc, eventCount_cons, eventCount_nil, Nat.zero_add,
    freshEvent_decoderEdge, countClick_eq_sat16]

/-- The events of a run of two parts are those of the parts. -/
theorem eventCount_append (os os' : List Outputs) : eventCount (os ++ os') = eventCount os + eventCount os' :=
  List.countP_append

/-! ### Idle runs (R75, D14) -/

/-- NOP and CFG_PERIOD complete where the speed unit exists and write `step_done_q` and the period register alone. -/
theorem exec_idle {i : Instr} {s : State} {u : SpeedUnit} (hu : s.speedUnit = some u)
    (hi : i = .nop ∨ ∃ p, i = .cfgPeriod p) :
    ∃ q, exec i s = .next { s with stepDoneQ := false, speedUnit := some { u with periodQ := q } } := by
  obtain rfl | ⟨p, rfl⟩ := hi
  · exact ⟨u.periodQ, by rw [exec_nop, ← hu]⟩
  · exact ⟨_, exec_cfgPeriod_some hu⟩

/-- What the output ports show while the decoder and the speed are held. -/
abbrev ShowsHeld (s : State) (u : SpeedUnit) (o : Outputs) : Prop :=
  o.speedO = some u.speedQ ∧ o.stateO = s.stateQ ∧ o.dirO = s.stateQ.extractLsb' 4 2 ∧ o.stepDoneO = false

/-- A run of idle edges writes the period register alone and shows the held values throughout. -/
theorem observe_idle {ops : List Instr} {s : State} {u : SpeedUnit} (hu : s.speedUnit = some u)
    (hops : ∀ i ∈ ops, i = .nop ∨ ∃ p, i = .cfgPeriod p) :
    ∃ os z q, observe ops s = some (os, z) ∧ z.speedUnit = some { u with periodQ := q } ∧ z.stateQ = s.stateQ ∧
      ∀ o ∈ os, ShowsHeld s u o := by
  induction ops generalizing s u with
  | nil => exact ⟨[], s, u.periodQ, rfl, hu, rfl, nofun⟩
  | cons i ops ih =>
    obtain ⟨hi, hrest⟩ := List.forall_mem_cons.1 hops
    obtain ⟨q, hq⟩ := exec_idle hu hi
    obtain ⟨os, z, q', hos, hz, hbyte, hshow⟩ :=
      ih (s := { s with stepDoneQ := false, speedUnit := some { u with periodQ := q } }) rfl hrest
    exact ⟨_, z, q', by rw [observe_cons_next hq, hos]; rfl, hz, hbyte,
      List.forall_mem_cons.2 ⟨⟨rfl, rfl, rfl, rfl⟩, hshow⟩⟩

/-- Without `step_done_o` no event is fresh (R74). -/
theorem eventCount_eq_zero {os : List Outputs} (h : ∀ o ∈ os, o.stepDoneO = false) : eventCount os = 0 :=
  List.countP_eq_zero.2 fun o ho => by simp [freshEvent, h o ho]

/-! ### The statements -/

/-- Settles O35: the count inside the window is the sum of its events, and the closing step adds its own before it stores
the speed. -/
theorem speedIsTheEventsOfTheWindow : Obligations.SpeedIsTheEventsOfTheWindow := by
  intro ops c t s u hu hclicks hperiod hops hclose
  obtain ⟨os, y, hos, hy⟩ := observe_open_window hu hops
  obtain ⟨os', z, hos', hz⟩ := observe_closing_step (c := c) (t := t) hy hclose
  refine ⟨os ++ os', z, by rw [observe_append, hos, Option.bind_some, hos']; rfl, ?_⟩
  have hcount : (sat16 ((sat16 (u.clicksQ.toNat + eventCount os)).toNat + eventCount os')).toNat =
      min (eventCount (os ++ os')) 65535 := by
    rw [sat16_sat16_add, sat16_toNat, eventCount_append, hclicks, BitVec.toNat_zero, Nat.zero_add]
  rw [hz, speedValue_eq hcount (periodFactor_of_ne_zero hperiod.ne_zero)]

/-- Settles O36: an idle run shows the held values, in which no event is fresh. -/
theorem idleCyclesNeverUpdateTheSpeed : Obligations.IdleCyclesNeverUpdateTheSpeed := by
  intro ops s u hu hops
  obtain ⟨os, z, q, hos, hz, hbyte, hshow⟩ := observe_idle hu hops
  have hdone : ∀ o ∈ os, o.stepDoneO = false := by
    intro o ho
    obtain ⟨-, -, -, hdone⟩ := hshow o ho
    exact hdone
  exact ⟨os, z, _, hos, hz, rfl, rfl, rfl, hbyte, eventCount_eq_zero hdone, hshow⟩

end Sys2Proof.Machine
end
